-- ==== Sys2Proof/Word.lean ====
section
/-! DEFINITION. The word types of the PWC (00_scope.md R5, R10): every value is an unsigned bit vector and bit 0 is
the least significant bit. -/

namespace Sys2Proof

/-- One byte of the packed form (R23, R48). -/
abbrev Byte := BitVec 8

/-- One register and one bus transfer: BUS_WIDTH = 32 bits (R5). -/
abbrev Word := BitVec 32

/-- An address value: WIDTH = 128 bits, any of [0, 2^128 − 1] (R5, R14). -/
abbrev Address := BitVec 128

end Sys2Proof
end

