-- ==== Sys2Proof/Fields.lean ====
section
/-! DEFINITION. The named values of the command word's RANGE field (30_encoding.md R66). They stand apart from
Syntax.lean, whose one inductive is `Instr`. -/

namespace Sys2Proof

/-- RANGE, the range tag (R66): where the software integer that the host presents lies. -/
inductive RangeTag where
  /-- 0b00 IN_RANGE: the operand is the 128-bit value in INT0..INT3. -/
  | inRange
  /-- 0b01 ABOVE: a software value above MAX_INT; INT0..INT3 are ignored. -/
  | above
  /-- 0b10 BELOW: a software value below 0; INT0..INT3 are ignored. -/
  | below
  /-- 0b11 reserved: illegal for every OP. -/
  | reserved
  deriving DecidableEq, Repr

end Sys2Proof
end

