-- ==== Sys2Proof/Syntax.lean ====
section
/-! DEFINITION. The six commands of spec/opcode_table.json (30_encoding.md R62). Each carries both operand fields of
the command word, RANGE and COUNT (R61, R69), also where the command ignores one (R66, R67). -/

namespace Sys2Proof

/-- A command of the PWC: OP with its RANGE and COUNT (R60–R62). -/
inductive Instr where
  /-- OP 0x0, no operation (R100). -/
  | nop (range : RangeTag) (count : BitVec 5)
  /-- OP 0x1, integer to packed (R80). -/
  | i2p (range : RangeTag) (count : BitVec 5)
  /-- OP 0x2, packed to integer (R81). -/
  | p2i (range : RangeTag) (count : BitVec 5)
  /-- OP 0x3, integer to words (R90). -/
  | i2w (range : RangeTag) (count : BitVec 5)
  /-- OP 0x4, words to integer (R91). -/
  | w2i (range : RangeTag) (count : BitVec 5)
  /-- OP 0x5, validate words (R92). -/
  | vw (range : RangeTag) (count : BitVec 5)
  deriving DecidableEq, Repr

end Sys2Proof
end

