-- ==== Sys2Proof/WellFormed.lean ====
section
/-! DEFINITION. Which commands are legal (30_encoding.md R66, R70): every OP of the table, every COUNT, and every RANGE
but the reserved 0b11. -/

namespace Sys2Proof

/-- The RANGE field of a command (R61). -/
def Instr.range : Instr → RangeTag
  | .nop r _ => r
  | .i2p r _ => r
  | .p2i r _ => r
  | .i2w r _ => r
  | .w2i r _ => r
  | .vw r _ => r

/-- The COUNT field of a command (R61). -/
def Instr.count : Instr → BitVec 5
  | .nop _ c => c
  | .i2p _ c => c
  | .p2i _ c => c
  | .i2w _ c => c
  | .w2i _ c => c
  | .vw _ c => c

/-- A legal command: RANGE is not 0b11 (R66). -/
abbrev Instr.WellFormed (i : Instr) : Prop := i.range ≠ .reserved

end Sys2Proof
end

