-- ==== Sys2Proof/Decode.lean ====
section
/-! DEFINITION. The command word: fields, decoder, encoder (30_encoding.md R60–R71). The decoder is total on 32-bit words
and rejects by name. -/

namespace Sys2Proof

/-- Why a word is no command; each is an ILLEGAL_COMMAND when it is written to CMD (R63). -/
inductive DecodeError where
  /-- A bit of 31:13 or 7:6 is set (R64). -/
  | reservedBits
  /-- RANGE = 0b11 (R66). -/
  | reservedRange
  /-- OP is 0x6–0xF (R65). -/
  | reservedOpcode
  deriving DecidableEq, Repr

/-- OP, bits 3:0 (R61). -/
def opField (c : Word) : BitVec 4 := c.extractLsb' 0 4

/-- RANGE, bits 5:4 (R61). -/
def rangeField (c : Word) : BitVec 2 := c.extractLsb' 4 2

/-- The reserved bits 7:6 (R61, R64). -/
def reservedLow (c : Word) : BitVec 2 := c.extractLsb' 6 2

/-- COUNT, bits 12:8 (R61). -/
def countField (c : Word) : BitVec 5 := c.extractLsb' 8 5

/-- The reserved bits 31:13 (R61, R64). -/
def reservedHigh (c : Word) : BitVec 19 := c.extractLsb' 13 19

/-- The meaning of the two RANGE bits (R66). -/
def rangeOfBits (b : BitVec 2) : RangeTag :=
  match b with
  | 0b00#2 => .inRange
  | 0b01#2 => .above
  | 0b10#2 => .below
  | _ => .reserved

/-- The two RANGE bits of a tag (R66). -/
def rangeBits : RangeTag → BitVec 2
  | .inRange => 0b00#2
  | .above => 0b01#2
  | .below => 0b10#2
  | .reserved => 0b11#2

/-- The opcode map (R62); the other ten opcodes are reserved (R65). -/
def commandOf (op : BitVec 4) (range : RangeTag) (count : BitVec 5) : Except DecodeError Instr :=
  match op with
  | 0x0#4 => .ok (.nop range count)
  | 0x1#4 => .ok (.i2p range count)
  | 0x2#4 => .ok (.p2i range count)
  | 0x3#4 => .ok (.i2w range count)
  | 0x4#4 => .ok (.w2i range count)
  | 0x5#4 => .ok (.vw range count)
  | _ => .error .reservedOpcode

/-- The decode procedure of R63, its checks in R63's order: reserved bits, RANGE, OP. (The FAULT check, which comes
before them, is the CMD write's: `Machine.writeCmd`.) -/
def decodeWord (c : Word) : Except DecodeError Instr :=
  if reservedHigh c ≠ 0 ∨ reservedLow c ≠ 0 then .error .reservedBits
  else if rangeField c = 0b11#2 then .error .reservedRange
  else commandOf (opField c) (rangeOfBits (rangeField c)) (countField c)

/-- OP of a command (R62). -/
def opcode : Instr → BitVec 4
  | .nop _ _ => 0x0#4
  | .i2p _ _ => 0x1#4
  | .p2i _ _ => 0x2#4
  | .i2w _ _ => 0x3#4
  | .w2i _ _ => 0x4#4
  | .vw _ _ => 0x5#4

/-- The command word, bit 31 first: nineteen zeros, COUNT, two zeros, RANGE, OP (R61). -/
def encode (i : Instr) : Word :=
  0#19 ++ i.count ++ 0#2 ++ rangeBits i.range ++ opcode i

/-- The host's question, about an opcode-table row: the command this decoder reads from the `nbits` low bits of `w`, every
higher bit zero. A command is one 32-bit word and has no second one (R60), so a number that does not fit is no
command. -/
def decodeTableWord (nbits w : Nat) : Option Instr :=
  if w % 2 ^ nbits < 2 ^ 32 then
    match decodeWord (BitVec.ofNat 32 (w % 2 ^ nbits)) with
    | .ok i => some i
    | .error _ => none
  else none

end Sys2Proof
end

