-- ==== Sys2Proof/Config.lean ====
section
/-! DEFINITION. What is fixed for the machine: the parameters of 00_scope.md R5, the CONFIG constant of 10_state.md R32, the
window of 20_memory.md R41, and the one free value (70_reset_and_hazards.md R130). -/

namespace Sys2Proof

/-- WIDTH: bits of an address value (R5). -/
def Config.width : Nat := 128

/-- WORD_SIZE: bits per word (R5). -/
def Config.wordSize : Nat := 16

/-- NUM_WORDS: words per address (R5). -/
def Config.numWords : Nat := 8

/-- MAX_INT = 2^WIDTH − 1 (R5, R32). -/
def Config.maxInt : Nat := 2 ^ Config.width - 1

/-- MAX_WORD = 2^WORD_SIZE − 1 (R5, R32). -/
def Config.maxWord : Nat := 2 ^ Config.wordSize - 1

/-- PACKED_BYTES = WIDTH / 8 (R5). -/
def Config.packedBytes : Nat := Config.width / 8

/-- GROUP_SIZE: bits per group (R5). -/
def Config.groupSize : Nat := 32

/-- GROUPS: 32-bit groups in the packed form (R5). -/
def Config.groups : Nat := 4

/-- BUS_WIDTH: bits per register and per bus transfer (R5). -/
def Config.busWidth : Nat := 32

/-- COUNT_BITS: width of CMD.COUNT (R5). -/
def Config.countBits : Nat := 5

/-- CONFIG as it reads: NUM_WORDS 23:16, WORD_SIZE 15:8, WIDTH 7:0, bits 31:24 zero (R32). -/
def Config.configWord : Word :=
  0#8 ++ BitVec.ofNat 8 Config.numWords ++ BitVec.ofNat 8 Config.wordSize ++ BitVec.ofNat 8 Config.width

/-- The window's size in bytes (R41). -/
def Config.windowSize : Nat := 256

/-- FREE VALUE (log entry 10). Whether the n-th transfer that reset abandons gets an error response (true) or no
response (false): R130 allows both and fixes neither. Nothing constrains it. -/
opaque Config.cutGetsError : Nat → Bool

end Sys2Proof
end

