-- ==== Sys2Proof/Machine/State.lean ====
section
/-! DEFINITION. The state of the PWC as plain data (10_state.md R20–R35), what the host sends and gets back (20_memory.md
R58), the reasons a step can stop, and the state after reset (70_reset_and_hazards.md R130). -/

namespace Sys2Proof.Machine

/-- What a bus transfer does: read, or write 32 bits of data (20_memory.md R46, R47). -/
inductive Access where
  | read
  | write (data : Word)
  deriving DecidableEq, Repr

/-- One bus transfer (00_scope.md R12): a bus address, a size in bytes, and a read or a write. Any size and any address
may be offered; the PWC answers the bad ones with a bus error (R45). -/
structure Transfer where
  addr : Nat
  size : Nat
  access : Access
  deriving DecidableEq, Repr

/-- One interaction of the host with the block (R58, R130). -/
inductive HostEvent where
  /-- A bus transfer. -/
  | transfer (t : Transfer)
  /-- `rst` is asserted while no transfer is in progress (R130). -/
  | reset
  /-- `rst` is asserted while this transfer is in progress, which abandons it (R130). -/
  | resetDuring (t : Transfer)
  deriving DecidableEq, Repr

/-- What the host gets back (R58). -/
inductive Response where
  /-- No response: nothing was transferred, or reset abandoned the transfer (R130). -/
  | silent
  /-- A write was accepted. -/
  | done
  /-- A read was accepted and returned this value (R46). -/
  | data (v : Word)
  /-- The bus's error response (R12, R43, R45). -/
  | busError
  /-- The address is outside the window: the PWC does not answer, whoever owns it does (R41; log entry 3). -/
  | elsewhere
  deriving DecidableEq, Repr

/-- STATUS.ECODE's five meanings (60_exceptions.md R110). -/
inductive ErrorCode where
  | ok
  | valueError
  | rangeError
  | illegalCommand
  | contractViolation
  deriving DecidableEq, Repr

/-- The machine. The first seven fields are the architectural state, R20's "exactly the following, and nothing else";
the last four are the model's own (INVENTORY.md, State). -/
structure State where
  /-- INT0..INT3; INT[i] holds v[32i+31:32i] (R22). -/
  int : Vector Word 4
  /-- PK0..PK3; PK[j] holds group j, the most significant first (R23). -/
  pk : Vector Word 4
  /-- W0..W7; lane k holds word k, the most significant first, in all its 32 bits (R24). -/
  w : Vector Word 8
  /-- STATUS.VALID (R27). -/
  valid : Bool
  /-- STATUS.ECODE (R28). -/
  ecode : BitVec 4
  /-- STATUS.ERR (R29). -/
  err : Bool
  /-- STATUS.FAULT (R30). -/
  fault : Bool
  /-- The model's: BASE, the open parameter (00_scope.md R7; log entry 2). No step changes it. -/
  base : Nat
  /-- The model's: the host's interactions still to be delivered, oldest first, in the bus's one total order
  (20_memory.md R52; log entry 1). -/
  pending : List HostEvent
  /-- The model's: what the host got back from the last interaction (R58; log entry 8). -/
  resp : Response
  /-- The model's: how many free values have been drawn (log entry 10). -/
  draws : Nat
  deriving DecidableEq, Repr

/-- A step never faults: every access completes (70_reset_and_hazards.md R138), a failing command is recorded in
STATUS (60_exceptions.md R113), and a rejected transfer gets a response (R117). So there is no constructor, nobody raises
one, and no claim is lost: safe (log entry 18). -/
inductive Fault where
  deriving DecidableEq, Repr

/-- A step is never refused either. -/
inductive Refusal where
  /-- For an arm of `exec` that has no meaning yet. No arm raises it: every command of the table has its meaning. It would be
  safe, since a refused instruction lets nothing be proved of its effect. -/
  | notModelled (mnemonic : String)
  deriving DecidableEq, Repr

/-- The state after reset, of a block placed at `base` (10_state.md R35): every register and STATUS zero, nothing
delivered yet (R132). -/
def State.resetAt (base : Nat) : State where
  int := Vector.replicate 4 0
  pk := Vector.replicate 4 0
  w := Vector.replicate 8 0
  valid := false
  ecode := 0
  err := false
  fault := false
  base := base
  pending := []
  resp := .silent
  draws := 0

/-- The state after reset. DESIGN CHOICE (log entry 2): BASE is an open parameter and this is the block placed at 0; no
statement rests on that. -/
def State.reset : State := State.resetAt 0

end Sys2Proof.Machine
end

