-- ==== Sys2Proof/Machine/Flags.lean ====
section
/-! DEFINITION. STATUS: the error codes' bits, the register as it reads, and the one write it accepts (10_state.md R26–R31,
60_exceptions.md R110, 42_control.md R101). -/

namespace Sys2Proof.Machine

/-- The code of an outcome (R110). -/
def errorBits : ErrorCode → BitVec 4
  | .ok => 0
  | .valueError => 1
  | .rangeError => 2
  | .illegalCommand => 3
  | .contractViolation => 4

/-- STATUS as it reads, bit 31 first: 22 reserved zeros, FAULT, ERR, ECODE, three reserved zeros, VALID (R26, R31). -/
def statusWord (s : State) : Word :=
  0#22 ++ BitVec.ofBool s.fault ++ BitVec.ofBool s.err ++ s.ecode ++ 0#3 ++ BitVec.ofBool s.valid

/-- A host write of `v` to STATUS clears ERR if bit 8 of `v` is 1 and changes nothing else (R101). -/
def writeStatus (v : Word) (s : State) : State :=
  if v.getLsbD 8 then { s with err := false } else s

end Sys2Proof.Machine
end

