-- ==== Sys2Proof/Machine/Ops.lean ====
section
/-! DEFINITION. The named operations: the register map and register reads and writes (20_memory.md R41–R47), how a command
ends (00_scope.md R13; what this machine has in place of taking an exception, 60_exceptions.md R113–R116), and
reset (70_reset_and_hazards.md R130). -/

namespace Sys2Proof.Machine

/-- The registers of the map (R42). -/
inductive Reg where
  | cmd
  | status
  | config
  | int (i : Fin 4)
  | pk (j : Fin 4)
  | w (k : Fin 8)
  deriving DecidableEq, Repr

/-- The offset of a register in the window (R42). -/
def regOffset : Reg → Nat
  | .cmd => 0x00
  | .status => 0x04
  | .config => 0x08
  | .int i => 0x10 + 4 * i.val
  | .pk j => 0x20 + 4 * j.val
  | .w k => 0x30 + 4 * k.val

/-- The register map (R42): the register at an offset, or none where the window is unmapped (R43). -/
def regAt (off : Nat) : Option Reg :=
  match off with
  | 0x00 => some .cmd
  | 0x04 => some .status
  | 0x08 => some .config
  | 0x10 => some (.int 0)
  | 0x14 => some (.int 1)
  | 0x18 => some (.int 2)
  | 0x1C => some (.int 3)
  | 0x20 => some (.pk 0)
  | 0x24 => some (.pk 1)
  | 0x28 => some (.pk 2)
  | 0x2C => some (.pk 3)
  | 0x30 => some (.w 0)
  | 0x34 => some (.w 1)
  | 0x38 => some (.w 2)
  | 0x3C => some (.w 3)
  | 0x40 => some (.w 4)
  | 0x44 => some (.w 5)
  | 0x48 => some (.w 6)
  | 0x4C => some (.w 7)
  | _ => none

/-- The offset of a bus address in the window at `base`, or none outside the window (R41). -/
def windowOffset (base addr : Nat) : Option Nat :=
  if base ≤ addr ∧ addr < base + Config.windowSize then some (addr - base) else none

/-- RegRead of a mapped register (R46): CMD reads 0 (R25), CONFIG its constant (R32). -/
def readReg (r : Reg) (s : State) : Word :=
  match r with
  | .cmd => 0
  | .status => statusWord s
  | .config => Config.configWord
  | .int i => s.int[i]
  | .pk j => s.pk[j]
  | .w k => s.w[k]

/-- RegWrite of INT[i]: all 32 bits (R47). -/
def writeInt (i : Fin 4) (v : Word) (s : State) : State := { s with int := s.int.set i v }

/-- RegWrite of PK[j]: all 32 bits (R47). -/
def writePk (j : Fin 4) (v : Word) (s : State) : State := { s with pk := s.pk.set j v }

/-- RegWrite of W[k]: all 32 bits (R24, R47). -/
def writeW (k : Fin 8) (v : Word) (s : State) : State := { s with w := s.w.set k v }

/-- `succeed()`: the command ends with ECODE = 0 (R13). -/
def succeed (s : State) : State := { s with ecode := errorBits .ok }

/-- `fail(code)`: ECODE is the code, ERR is set, and every other register stays as it stood before the command
(R13, R111, R113). -/
def fail (code : ErrorCode) (s : State) : State := { s with ecode := errorBits code, err := true }

/-- `fault()`: fail with CONTRACT_VIOLATION and set the FAULT latch (R13, R115). -/
def latchFault (s : State) : State := { fail .contractViolation s with fault := true }

/-- A command with this RANGE: ignored entirely while FAULT is 1 (R63, R116); RANGE 0b11 is ILLEGAL_COMMAND for every OP (R66;
the decoder has already refused that word, log entry 15); else its own effect. -/
def runCommand (range : RangeTag) (body : State → State) (s : State) : State :=
  if s.fault then s
  else if range = .reserved then fail .illegalCommand s
  else body s

/-- The host gets this back (R58). -/
def respond (r : Response) (s : State) : State := { s with resp := r }

/-- Reset at a rising clock edge (R130): every register takes its reset value (R35). The placement of the block and what the
host still has to deliver are not the block's registers. -/
def resetRegisters (s : State) : State :=
  { State.resetAt s.base with pending := s.pending, draws := s.draws }

/-- Reset while a transfer is in progress (R130): the registers are as after any reset, and the abandoned transfer gets no
response or an error response, a free value (log entry 10). -/
def abandonTransfer (s : State) : State :=
  { resetRegisters s with
    resp := if Config.cutGetsError s.draws then .busError else .silent
    draws := s.draws + 1 }

end Sys2Proof.Machine
end

