-- ==== Sys2Proof/Machine/Operands.lean ====
section
/-! DEFINITION. The operand forms (30_encoding.md R66–R69): the integer in INT0..INT3 under a range tag, the packed bytes in
PK0..PK3 under a presented length, the words in W0..W7 under a presented count; and how a 128-bit value is laid out
in each of the three register families. `++` is the spec's concatenation, high part first (00_scope.md R10). -/

namespace Sys2Proof.Machine

/-- IntValue(): INT[3] << 96 | INT[2] << 64 | INT[1] << 32 | INT[0] (R11, R22). -/
def intValue (s : State) : Address := s.int[3] ++ s.int[2] ++ s.int[1] ++ s.int[0]

/-- What SetInt(v) puts into INT0..INT3: INT[i] <- v[32i+31:32i] (R11). -/
def intLimbs (v : Address) : Vector Word 4 := Vector.ofFn fun i => v.extractLsb' (32 * i.val) 32

/-- SetInt(v) (R11). -/
def setInt (v : Address) (s : State) : State := { s with int := intLimbs v }

/-- Group j of the packed form of v, j = 0 the most significant: v[127−32j:96−32j] (R80). -/
def packGroups (v : Address) : Vector Word 4 := Vector.ofFn fun j => v.extractLsb' (96 - 32 * j.val) 32

/-- The integer that PK0..PK3 hold: PK[0] << 96 | PK[1] << 64 | PK[2] << 32 | PK[3] (R81, R83). -/
def packedValue (s : State) : Address := s.pk[0] ++ s.pk[1] ++ s.pk[2] ++ s.pk[3]

/-- Write the packed form of v to PK0..PK3 (R80). -/
def setPacked (v : Address) (s : State) : State := { s with pk := packGroups v }

/-- Byte b_k of the packed form: PK[k div 4][31−8(k mod 4):24−8(k mod 4)] (R23, R48). -/
def packedByte (s : State) (k : Fin 16) : Byte :=
  (s.pk[k.val / 4]'(by omega)).extractLsb' (24 - 8 * (k.val % 4)) 8

/-- Word k of v, k = 0 the most significant, as a lane: zext_32(v[127−16k:112−16k]) (R90). -/
def laneWords (v : Address) : Vector Word 8 :=
  Vector.ofFn fun k => (v.extractLsb' (112 - 16 * k.val) 16).setWidth 32

/-- Write the words of v to W0..W7 (R90). -/
def setLanes (v : Address) (s : State) : State := { s with w := laneWords v }

/-- The 16 low bits of a lane, W[k][15:0] (R91). -/
def laneLow (s : State) (k : Fin 8) : BitVec 16 := s.w[k].extractLsb' 0 16

/-- A lane value is a valid word exactly when bits 31:16 are zero (R24). -/
abbrev laneValid (s : State) (k : Fin 8) : Prop := s.w[k].extractLsb' 16 16 = 0

/-- The presented sequence is a valid word sequence: exactly NUM_WORDS elements, each at most MAX_WORD (R14, R92). -/
abbrev wordsValid (count : BitVec 5) (s : State) : Prop := count = 8 ∧ ∀ k : Fin 8, laneValid s k

/-- The integer that W0..W7 hold: Σ W[k][15:0] << (16 × (7−k)), the most significant word first (R91). -/
def wordsValue (s : State) : Address :=
  laneLow s 0 ++ laneLow s 1 ++ laneLow s 2 ++ laneLow s 3 ++ laneLow s 4 ++ laneLow s 5 ++ laneLow s 6 ++ laneLow s 7

/-- The integer operand of I2P and I2W (R66): IntValue() if it is tagged in range, none if it is outside [0, MAX_INT]. -/
def intOperand (range : RangeTag) (s : State) : Option Address :=
  if range = .inRange then some (intValue s) else none

/-- The operand of P2I (R67, R81): the value of the 16 bytes, none if the presented length is not 16. -/
def packedOperand (count : BitVec 5) (s : State) : Option Address :=
  if count = 16 then some (packedValue s) else none

/-- The operand of W2I (R67, R91): the value of the eight words, none if the sequence is not valid. -/
def wordsOperand (count : BitVec 5) (s : State) : Option Address :=
  if wordsValid count s then some (wordsValue s) else none

end Sys2Proof.Machine
end

