-- ==== Sys2Proof/Machine/Control.lean ====
section
/-! DEFINITION. The control family: NOP (42_control.md R100). -/

namespace Sys2Proof.Machine

/-- NOP (R100): ECODE <- 0, nothing else; RANGE (but for 0b11) and COUNT are ignored. -/
def execNop (range : RangeTag) (_count : BitVec 5) (s : State) : Host.Outcome State Fault Refusal :=
  .next (runCommand range succeed s)

end Sys2Proof.Machine
end

