-- ==== Sys2Proof/Machine/Packed.lean ====
section
/-! DEFINITION. The packed family: I2P and P2I (40_packed.md R80, R81). -/

namespace Sys2Proof.Machine

/-- The body of I2P (R80). -/
def integerToPacked (range : RangeTag) (s : State) : State :=
  match intOperand range s with
  | none => fail .valueError s
  | some v => succeed (setPacked v s)

/-- The body of P2I (R81). -/
def packedToInteger (count : BitVec 5) (s : State) : State :=
  match packedOperand count s with
  | none => latchFault s
  | some v => succeed (setInt v s)

/-- I2P (R80); COUNT is ignored. -/
def execI2p (range : RangeTag) (_count : BitVec 5) (s : State) : Host.Outcome State Fault Refusal :=
  .next (runCommand range (integerToPacked range) s)

/-- P2I (R81); RANGE is ignored but for 0b11. -/
def execP2i (range : RangeTag) (count : BitVec 5) (s : State) : Host.Outcome State Fault Refusal :=
  .next (runCommand range (packedToInteger count) s)

end Sys2Proof.Machine
end

