-- ==== Sys2Proof/Machine/Words.lean ====
section
/-! DEFINITION. The word family: I2W, W2I and VW (41_words.md R90–R92). -/

namespace Sys2Proof.Machine

/-- The body of I2W (R90). -/
def integerToWords (range : RangeTag) (s : State) : State :=
  match intOperand range s with
  | none => fail .valueError s
  | some v => succeed (setLanes v s)

/-- The body of W2I (R91): strict validation, never a truncated value. -/
def wordsToInteger (count : BitVec 5) (s : State) : State :=
  match wordsOperand count s with
  | none => fail .rangeError s
  | some v => succeed (setInt v s)

/-- The body of VW (R92): an invalid sequence is a result, not an error. -/
def validateWords (count : BitVec 5) (s : State) : State :=
  succeed { s with valid := decide (wordsValid count s) }

/-- I2W (R90); COUNT is ignored. -/
def execI2w (range : RangeTag) (_count : BitVec 5) (s : State) : Host.Outcome State Fault Refusal :=
  .next (runCommand range (integerToWords range) s)

/-- W2I (R91); RANGE is ignored but for 0b11. -/
def execW2i (range : RangeTag) (count : BitVec 5) (s : State) : Host.Outcome State Fault Refusal :=
  .next (runCommand range (wordsToInteger count) s)

/-- VW (R92); RANGE is ignored but for 0b11. -/
def execVw (range : RangeTag) (count : BitVec 5) (s : State) : Host.Outcome State Fault Refusal :=
  .next (runCommand range (validateWords count) s)

end Sys2Proof.Machine
end

