-- ==== Sys2Proof/Machine/Dispatch.lean ====
section
/-! DEFINITION. One arm per command of the opcode table (30_encoding.md R62, R63). -/

namespace Sys2Proof.Machine

/-- What a command does once it is decoded (R63). -/
def exec (i : Instr) (s : State) : Host.Outcome State Fault Refusal :=
  match i with
  | .nop range count => Sys2Proof.Machine.execNop range count s
  | .i2p range count => Sys2Proof.Machine.execI2p range count s
  | .p2i range count => Sys2Proof.Machine.execP2i range count s
  | .i2w range count => Sys2Proof.Machine.execI2w range count s
  | .w2i range count => Sys2Proof.Machine.execW2i range count s
  | .vw range count => Sys2Proof.Machine.execVw range count s

end Sys2Proof.Machine
end

