-- ==== Sys2Proof/Machine/Bus.lean ====
section
/-! DEFINITION. What the PWC does with each interaction of the host (20_memory.md R41–R58, 30_encoding.md R63,
70_reset_and_hazards.md R130). -/

namespace Sys2Proof.Machine

/-- A write of `c` to CMD (R63), one atomic step (R50): ignored while FAULT is 1, ILLEGAL_COMMAND if `c` is no command word,
else the command. -/
def writeCmd (c : Word) (s : State) : Host.Outcome State Fault Refusal :=
  if s.fault then .next s
  else
    match decodeWord c with
    | .error _ => .next (fail .illegalCommand s)
    | .ok i => exec i s

/-- RegWrite of a mapped register (R47). -/
def writeReg (r : Reg) (v : Word) (s : State) : Host.Outcome State Fault Refusal :=
  match r with
  | .cmd => writeCmd v s
  | .status => .next (writeStatus v s)
  | .config => .next s
  | .int i => .next (writeInt i v s)
  | .pk j => .next (writePk j v s)
  | .w k => .next (writeW k v s)

/-- The bus's response to an access that ended in this outcome. -/
def answer (r : Response) (o : Host.Outcome State Fault Refusal) : Host.Outcome State Fault Refusal :=
  match o with
  | .next s => .next (respond r s)
  | .fault e => .fault e
  | .refused e => .refused e

/-- An accepted access to a mapped register (R46, R47): a read changes no register. -/
def accessReg (r : Reg) (a : Access) (s : State) : Host.Outcome State Fault Refusal :=
  match a with
  | .read => .next (respond (.data (readReg r s)) s)
  | .write v => answer .done (writeReg r v s)

/-- The register that a transfer of this size reaches at this offset, or none where it gets `raise BusError`: another size
than 4, a misaligned offset (R45), or an unmapped one (R43). -/
def acceptedReg (off size : Nat) : Option Reg :=
  if size = 4 ∧ off % 4 = 0 then regAt off else none

/-- One bus transfer. Outside the window it is not the PWC's (R41; log entry 3); a rejected one changes nothing and gets the
error response (R43, R45, R117). -/
def performTransfer (t : Transfer) (s : State) : Host.Outcome State Fault Refusal :=
  match windowOffset s.base t.addr with
  | none => .next (respond .elsewhere s)
  | some off =>
    match acceptedReg off t.size with
    | none => .next (respond .busError s)
    | some r => accessReg r t.access s

/-- One interaction of the host (R58, R130). -/
def deliver (e : HostEvent) (s : State) : Host.Outcome State Fault Refusal :=
  match e with
  | .transfer t => performTransfer t s
  | .reset => .next (resetRegisters s)
  | .resetDuring _ => .next (abandonTransfer s)

/-- The host's interactions are delivered one at a time, the oldest first (R52); with nothing to deliver the PWC waits
(R132; log entry 7). -/
def deliverNext (s : State) : Host.Outcome State Fault Refusal :=
  match s.pending with
  | [] => .next s
  | e :: rest => deliver e { s with pending := rest }

/-- The transfer that issues command word `c` to a block at `base`: `WR CMD, c` (R60, R72). -/
def commandTransfer (base : Nat) (c : Word) : Transfer :=
  { addr := base + regOffset .cmd, size := 4, access := .write c }

end Sys2Proof.Machine
end

