-- ==== Sys2Proof/Machine/Step.lean ====
section
/-! DEFINITION. One step of the machine: one complete register read or write with the command it starts, or one
reset (00_scope.md R9, 20_memory.md R50, R52). -/

namespace Sys2Proof.Machine

/-- One step (R9). -/
def step (s : State) : Host.Outcome State Fault Refusal := deliverNext s

/-- The PWC fetches nothing: a command is the data of the host's CMD write (R55, R60; log entry 12). So the next command
stands at the head of what the host has still to deliver: this state has the write of word `w` (its bits from `nbits` up
zero) to CMD there, before everything else, and is otherwise `s`. -/
def State.withFetchWord (s : State) (nbits w : Nat) : State :=
  { s with
    pending := .transfer (commandTransfer s.base (BitVec.ofNat 32 (w % 2 ^ nbits))) :: s.pending }

end Sys2Proof.Machine
end

