-- ==== Sys2Proof/Machine/Document.lean ====
section
/-! DEFINITION. The software side, which the block is the hardware form of (00_scope.md R3): the five conversion functions on
unbounded integers and sequences, and how the host presents their arguments to the block (20_memory.md R44,
30_encoding.md R66, R67). Arithmetic here is on Nat and Int, so that nothing of the register layout enters. -/

namespace Sys2Proof.Machine

/-- `integer_to_packed` (R3, R80): the 16 bytes of v, the most significant first; ValueError outside [0, MAX_INT]. -/
def docIntegerToPacked (v : Int) : Except ErrorCode (List Nat) :=
  if 0 ≤ v ∧ v ≤ Config.maxInt then
    .ok ((List.range Config.packedBytes).map fun k => v.toNat / 256 ^ (15 - k) % 256)
  else .error .valueError

/-- `packed_to_integer` (R3, R81): the big-endian value of 16 bytes; another length is a contract violation. -/
def docPackedToInteger (bytes : List Byte) : Except ErrorCode Nat :=
  if bytes.length = Config.packedBytes then .ok (bytes.foldl (fun acc b => acc * 256 + b.toNat) 0)
  else .error .contractViolation

/-- `integer_to_words(v, 8, 16)` (R3, R90): the eight words of v, the most significant first; ValueError outside
[0, MAX_INT]. -/
def docIntegerToWords (v : Int) : Except ErrorCode (List Nat) :=
  if 0 ≤ v ∧ v ≤ Config.maxInt then
    .ok ((List.range Config.numWords).map fun k => v.toNat / 65536 ^ (7 - k) % 65536)
  else .error .valueError

/-- `validate_words(words, 16, 8)` (R3, R92): exactly NUM_WORDS elements, each in [0, MAX_WORD]. -/
abbrev docValidateWords (words : List Int) : Prop :=
  words.length = Config.numWords ∧ ∀ w ∈ words, 0 ≤ w ∧ w ≤ Config.maxWord

/-- `words_to_integer(words, 16, 8)` (R3, R91): the big-endian value of a valid sequence; RangeError for any other. -/
def docWordsToInteger (words : List Int) : Except ErrorCode Nat :=
  if docValidateWords words then .ok (words.foldl (fun acc w => acc * 65536 + w.toNat) 0)
  else .error .rangeError

/-- The RANGE that presents the software integer v (R66). -/
def rangeTagOf (v : Int) : RangeTag :=
  if v < 0 then .below else if v ≤ Config.maxInt then .inRange else .above

/-- The COUNT that presents a sequence of n elements: n up to 31, 31 for any longer one (R67). -/
def presentedCount (n : Nat) : BitVec 5 := BitVec.ofNat 5 (min n 31)

/-- INT0..INT3 present v (R66): they hold v where it is representable, and anything elsewhere. -/
abbrev PresentsInteger (v : Int) (s : State) : Prop :=
  0 ≤ v → v ≤ Config.maxInt → ((intValue s).toNat : Int) = v

/-- A lane presents the software word x (R44): x itself from 0 to 2^32 − 1; otherwise any value from 0x00010000 up. -/
abbrev PresentsWord (x : Int) (lane : Word) : Prop :=
  if 0 ≤ x ∧ x < 2 ^ 32 then (lane.toNat : Int) = x else 0x10000 ≤ lane.toNat

/-- The lanes present a sequence of words (R44, R67): its first eight elements stand in W0..W7, and the lanes beyond its
length hold anything. -/
abbrev PresentsWords (words : List Int) (s : State) : Prop :=
  ∀ (k : Fin 8) (h : k.val < words.length), PresentsWord words[k.val] s.w[k]

/-- PK0..PK3 present a sequence of bytes (R58, R67): its first sixteen elements are b0..b15. -/
abbrev PresentsBytes (bytes : List Byte) (s : State) : Prop :=
  ∀ (k : Fin 16) (h : k.val < bytes.length), packedByte s k = bytes[k.val]

/-- One value that presents the software word x in a lane: x, or the spec's example 0xFFFFFFFF (R44; log entry 20). -/
def presentedWord (x : Int) : Word :=
  if 0 ≤ x ∧ x < 2 ^ 32 then BitVec.ofInt 32 x else 0xFFFFFFFF

end Sys2Proof.Machine
end

