-- ==== Sys2Proof/Machine/Assembler.lean ====
section
/-! DEFINITION. The host program notation (30_encoding.md R72, R73) on its abstract syntax: each line is the bus transfers it
stands for, in order, on a block at `base`. -/

namespace Sys2Proof.Machine

/-- The command mnemonics (R62, R72). -/
inductive Mnemonic where
  | nop
  | i2p
  | p2i
  | i2w
  | w2i
  | vw
  deriving DecidableEq, Repr

/-- `<reg>` of R72: a register name or an offset. -/
inductive RegRef where
  | name (r : Reg)
  | offset (off : Nat)
  deriving DecidableEq, Repr

/-- One line of a host program (R72, R73). A command's `range` is a number 0–3 (`in`, `above`, `below` are 0, 1, 2) and its
`count` a number; either may be left out. -/
inductive HostLine where
  | wr (reg : RegRef) (value : Word)
  | rd (reg : RegRef)
  | command (m : Mnemonic) (range count : Option Nat)
  | ldi (v : Address)
  | ldp (bytes : Vector Byte 16)
  | ldw (words : Vector Int 8)
  | clrerr
  | rdi
  | rdp
  | rdw
  deriving DecidableEq, Repr

/-- The commands that read RANGE (R66). -/
def readsRange : Mnemonic → Bool
  | .i2p | .i2w => true
  | .nop | .p2i | .w2i | .vw => false

/-- The commands that read COUNT (R67). -/
def readsCount : Mnemonic → Bool
  | .p2i | .w2i | .vw => true
  | .nop | .i2p | .i2w => false

/-- The default of `count=` (R72). -/
def defaultCount : Mnemonic → Nat
  | .p2i => 16
  | .w2i | .vw => 8
  | .nop | .i2p | .i2w => 0

/-- A mnemonic with its two fields, as the command of the table (R62). -/
def mnemonicCommand (m : Mnemonic) (range : RangeTag) (count : BitVec 5) : Instr :=
  match m with
  | .nop => .nop range count
  | .i2p => .i2p range count
  | .p2i => .p2i range count
  | .i2w => .i2w range count
  | .w2i => .w2i range count
  | .vw => .vw range count

/-- The command that a line stands for, or none where the assembler refuses it: `range=3` or more, a count above 31. A field
the command ignores is written as 0 (R72; log entry 17). -/
def assembleCommand (m : Mnemonic) (range count : Option Nat) : Option Instr :=
  let r := range.getD 0
  let c := count.getD (defaultCount m)
  if r < 3 ∧ c < 32 then
    some (mnemonicCommand m
      (if readsRange m then rangeOfBits (BitVec.ofNat 2 r) else .inRange)
      (if readsCount m then BitVec.ofNat 5 c else 0))
  else none

/-- RegRead(off) (R12). -/
def regRead (base off : Nat) : Transfer := { addr := base + off, size := 4, access := .read }

/-- RegWrite(off, v) (R12). -/
def regWrite (base off : Nat) (v : Word) : Transfer := { addr := base + off, size := 4, access := .write v }

/-- The offset a register reference means (R72). -/
def refOffset : RegRef → Nat
  | .name r => regOffset r
  | .offset off => off

/-- Bytes b(4j)..b(4j+3) as PK[j]: b(4j) << 24 | b(4j+1) << 16 | b(4j+2) << 8 | b(4j+3) (R73). -/
def bytesGroup (b : Vector Byte 16) (j : Fin 4) : Word :=
  (b[4 * j.val]'(by omega)) ++ (b[4 * j.val + 1]'(by omega)) ++ (b[4 * j.val + 2]'(by omega)) ++
    (b[4 * j.val + 3]'(by omega))

/-- The transfers of a line, in order (R72, R73); none where the assembler refuses it. -/
def assemble (base : Nat) (line : HostLine) : Option (List Transfer) :=
  match line with
  | .wr reg v => some [regWrite base (refOffset reg) v]
  | .rd reg => some [regRead base (refOffset reg)]
  | .command m range count => (assembleCommand m range count).map fun i => [commandTransfer base (encode i)]
  | .ldi v => some ((List.finRange 4).map fun i => regWrite base (regOffset (.int i)) (intLimbs v)[i])
  | .ldp b => some ((List.finRange 4).map fun j => regWrite base (regOffset (.pk j)) (bytesGroup b j))
  | .ldw ws => some ((List.finRange 8).map fun k => regWrite base (regOffset (.w k)) (presentedWord ws[k]))
  | .clrerr => some [regWrite base (regOffset .status) 0x00000100]
  | .rdi => some ((List.finRange 4).map fun i => regRead base (regOffset (.int i)))
  | .rdp => some ((List.finRange 4).map fun j => regRead base (regOffset (.pk j)))
  | .rdw => some ((List.finRange 8).map fun k => regRead base (regOffset (.w k)))

end Sys2Proof.Machine
end

