-- ==== Sys2Proof/Safety.lean ====
section
/-! DEFINITION. The terms claims are made in: a faulted state (60_exceptions.md R116), the legal states, and which registers an
interaction can reach. -/

namespace Sys2Proof.Machine

/-- A state with FAULT = 1 is faulted: no command runs in it (R116, U4). -/
abbrev Faulted (s : State) : Prop := s.fault = true

/-- The states the block can be in after reset, of a block placed where R7 allows: ECODE is no reserved code (R28, U7); FAULT
is set exactly while ECODE is CONTRACT_VIOLATION (R115, R116 "So ECODE keeps 4"); BASE is a multiple of 256. -/
structure LegalState (s : State) : Prop where
  ecode_legal : s.ecode ≤ 4#4
  fault_iff : s.fault = true ↔ s.ecode = errorBits .contractViolation
  base_aligned : s.base % 256 = 0

/-- The data registers INT, PK and W of two states agree. -/
abbrev SameData (s t : State) : Prop := s.int = t.int ∧ s.pk = t.pk ∧ s.w = t.w

/-- The four STATUS fields of two states agree. -/
abbrev SameStatus (s t : State) : Prop :=
  s.valid = t.valid ∧ s.ecode = t.ecode ∧ s.err = t.err ∧ s.fault = t.fault

/-- The architectural state (R20) of two states agrees. -/
abbrev SameRegisters (s t : State) : Prop := SameData s t ∧ SameStatus s t

/-- An illegal command word, said of its own bits (30_encoding.md R64–R66, R70): a reserved bit is set, RANGE is 0b11, or OP is
0x6–0xF. -/
abbrev IllegalWord (c : Word) : Prop :=
  c.extractLsb' 13 19 ≠ 0 ∨ c.extractLsb' 6 2 ≠ 0 ∨ c.extractLsb' 4 2 = 3#2 ∨ 6 ≤ (c.extractLsb' 0 4).toNat

/-- The outcome that a write of word `c` to CMD reports while FAULT is 0, said of the word's own bits and the lanes, in the order
of 60_exceptions.md R112 with R110's causes: an illegal word, then the command's own check, then OK. -/
def reportedCode (c : Word) (s : State) : ErrorCode :=
  if IllegalWord c then .illegalCommand
  else if (c.extractLsb' 0 4 = 1#4 ∨ c.extractLsb' 0 4 = 3#4) ∧ c.extractLsb' 4 2 ≠ 0 then .valueError
  else if c.extractLsb' 0 4 = 4#4 ∧ (c.extractLsb' 8 5 ≠ 8#5 ∨ ∃ k : Fin 8, 0xFFFF < s.w[k].toNat) then .rangeError
  else if c.extractLsb' 0 4 = 2#4 ∧ c.extractLsb' 8 5 ≠ 16#5 then .contractViolation
  else .ok

/-- The next interaction is a write of word `c` to CMD that the bus accepts (R47, R50). -/
abbrev WritesCmd (s : State) (c : Word) : Prop :=
  ∃ rest, s.pending = .transfer (commandTransfer s.base c) :: rest

/-- The next interaction is a reset, with or without a transfer in progress (R130). -/
abbrev ResetsNext (s : State) : Prop :=
  s.pending.head? = some .reset ∨ ∃ t, s.pending.head? = some (.resetDuring t)

/-- `k` steps, one interaction each, stopping at the first fault or refusal: how a line of the host notation, which stands for
several transfers (30_encoding.md R73), is delivered. -/
def runSteps : Nat → State → Host.Outcome State Fault Refusal
  | 0, s => .next s
  | k + 1, s =>
    match step s with
    | .next t => runSteps k t
    | .fault e => .fault e
    | .refused e => .refused e

end Sys2Proof.Machine
end

