-- ==== Sys2Proof/Certificates/Slice0/Obligations.lean ====
section
/-! DEFINITION. The statements about the PWC, from the numbered rules of spec/. A rule named in a docstring is the one the
statement formalises. `t = { s with … }` says the frame too: every field not named is as it was. -/

open Sys2Proof Sys2Proof.Machine

/-! ## The command word -/

/-- Encoding then decoding a legal command gives it back, with both fields at every value (R61, R62, R63, R71). -/
def Obligations.DecodeOfEncodeIsTheCommand : Prop :=
  ∀ i : Instr, i.WellFormed → decodeWord (encode i) = .ok i

/-- A word has one meaning: whatever decodes to a command is that command's word, and the command is legal (R71). -/
def Obligations.EncodeOfDecodeIsTheWord : Prop :=
  ∀ (c : Word) (i : Instr), decodeWord c = .ok i → i.WellFormed ∧ encode i = c

/-- The decoder rejects exactly the words with a reserved bit set, RANGE 0b11 or OP 0x6–0xF (R64, R65, R66). -/
def Obligations.DecodeRejectsExactlyIllegalWords : Prop :=
  ∀ c : Word, (∃ e, decodeWord c = .error e) ↔ IllegalWord c

/-- Exactly 576 words are commands (R70's count). -/
def Obligations.ExactlyFiveHundredSeventySixLegalWords : Prop :=
  ∃ l : List Word, l.Nodup ∧ l.length = 576 ∧ ∀ c : Word, c ∈ l ↔ ∃ i, decodeWord c = .ok i

/-- Words written out from R61's pattern `0000000000000000000 ccccc 00 rr oooo`, one for each opcode. -/
def Obligations.DecodesWordsWrittenOut : Prop :=
  decodeWord 0b00000000000000000001111100100000#32 = .ok (.nop .below 31) ∧
  decodeWord 0b00000000000000000000000000010001#32 = .ok (.i2p .above 0) ∧
  decodeWord 0b00000000000000000001000000000010#32 = .ok (.p2i .inRange 16) ∧
  decodeWord 0b00000000000000000000000000000011#32 = .ok (.i2w .inRange 0) ∧
  decodeWord 0b00000000000000000000100000000100#32 = .ok (.w2i .inRange 8) ∧
  decodeWord 0b00000000000000000000100000000101#32 = .ok (.vw .inRange 8)

/-! ## A step -/

/-- When the next interaction writes a command word to CMD, the step is that command on the state with the write taken off
the pending list, and the host gets the bus's completion (R50, R63). -/
def Obligations.StepRunsTheDecodedCommand : Prop :=
  ∀ (s : State) (c : Word) (i : Instr) (rest : List HostEvent),
    s.pending = .transfer (commandTransfer s.base c) :: rest → decodeWord c = .ok i →
    step s = answer .done (exec i { s with pending := rest })

/-- The host's placement of a table word is run by the very next step (R55, R60; the model's withFetchWord, log
entry 12). -/
def Obligations.PlacedTableWordIsRunNext : Prop :=
  ∀ (s : State) (nbits w : Nat) (i : Instr), decodeTableWord nbits w = some i →
    step (s.withFetchWord nbits w) = answer .done (exec i s)

/-- A CMD write of a word with a reserved bit set, RANGE 0b11 or a reserved OP fails with ILLEGAL_COMMAND, and nothing but
STATUS changes (R64, R65). -/
def Obligations.IllegalWordFailsTheCmdWrite : Prop :=
  ∀ (s : State) (c : Word) (rest : List HostEvent),
    s.pending = .transfer (commandTransfer s.base c) :: rest → s.fault = false →
    IllegalWord c →
    step s = .next { s with pending := rest, ecode := 3, err := true, resp := .done }

/-- Every step answers a next state: no transfer hangs or is refused (R138). -/
def Obligations.EveryStepCompletes : Prop :=
  ∀ s : State, ∃ t, step s = .next t

/-- The interactions are delivered one at a time in the bus's order (R52): a step is the delivery of the oldest one to the block
with that one taken off the list, which then holds exactly the others, and BASE stays. With none the block waits unchanged
(R132). That the list is there and that waiting is a step are the model's (log entries 1 and 7). -/
def Obligations.StepDeliversTheOldestInteraction : Prop :=
  ∀ s t : State, step s = .next t →
    (∀ e rest, s.pending = e :: rest → deliver e { s with pending := rest } = .next t) ∧
    t.pending = s.pending.tail ∧ t.base = s.base ∧ (s.pending = [] → t = s)

/-! ## The commands -/

/-- NOP (R100): its word; ECODE <- 0 and nothing else, for every COUNT and every legal RANGE; RANGE 0b11 is ILLEGAL_COMMAND; while
FAULT = 1 NOP is ignored. -/
def Obligations.NopClearsEcodeOnly : Prop :=
  encode (.nop .inRange 0) = 0x00000000 ∧ ∀ (s : State) (r : RangeTag) (c : BitVec 5),
    encode (.nop r c) = 0#19 ++ c ++ 0#2 ++ rangeBits r ++ 0x0#4 ∧
    (s.fault = false → r ≠ .reserved → exec (.nop r c) s = .next { s with ecode := 0 }) ∧
    (s.fault = false → r = .reserved → exec (.nop r c) s = .next { s with ecode := 3, err := true }) ∧
    (s.fault = true → exec (.nop r c) s = .next s)

/-- I2P (R80), its word and every form. In range: PK[j] is v[127−32j:96−32j], which is INT[3−j], and byte b_k of the result is
v[127−8k:120−8k]; ECODE is 0 and nothing else changes. Out of range: VALUE_ERROR and no result. -/
def Obligations.IntegerToPackedResult : Prop :=
  encode (.i2p .inRange 0) = 0x00000001 ∧ ∀ (s : State) (r : RangeTag) (c : BitVec 5), s.fault = false →
    encode (.i2p r c) = 0#19 ++ c ++ 0#2 ++ rangeBits r ++ 0x1#4 ∧
    (r = .inRange → ∃ t, exec (.i2p r c) s = .next t ∧
      (∀ j : Fin 4, t.pk[j] = (intValue s).extractLsb' (96 - 32 * j.val) 32) ∧
      (∀ j : Fin 4, t.pk[j] = s.int[3 - j]) ∧
      (∀ k : Fin 16, packedByte t k = (intValue s).extractLsb' (120 - 8 * k.val) 8) ∧
      t = { s with pk := t.pk, ecode := 0 }) ∧
    (r = .above ∨ r = .below → exec (.i2p r c) s = .next { s with ecode := 1, err := true }) ∧
    (r = .reserved → exec (.i2p r c) s = .next { s with ecode := 3, err := true })

/-- P2I (R81), its word and every form. COUNT = 16: IntValue() is the sum of the groups PK[3−i] << 32i and of the bytes
b_k << 8(15−k); ECODE is 0 and nothing but INT changes. Another COUNT: CONTRACT_VIOLATION, with FAULT, and no result. -/
def Obligations.PackedToIntegerResult : Prop :=
  encode (.p2i .inRange 16) = 0x00001002 ∧ ∀ (s : State) (r : RangeTag) (c : BitVec 5), s.fault = false →
    encode (.p2i r c) = 0#19 ++ c ++ 0#2 ++ rangeBits r ++ 0x2#4 ∧
    (r ≠ .reserved → c = 16 → ∃ t, exec (.p2i r c) s = .next t ∧
      (intValue t).toNat = ∑ i : Fin 4, s.pk[3 - i].toNat * 2 ^ (32 * i.val) ∧
      (intValue t).toNat = ∑ k : Fin 16, (packedByte s k).toNat * 2 ^ (8 * (15 - k.val)) ∧
      (∀ i : Fin 4, t.int[i] = s.pk[3 - i]) ∧
      t = { s with int := t.int, ecode := 0 }) ∧
    (r ≠ .reserved → c ≠ 16 → exec (.p2i r c) s = .next { s with ecode := 4, err := true, fault := true }) ∧
    (r = .reserved → exec (.p2i r c) s = .next { s with ecode := 3, err := true })

/-- I2W (R90), its word and every form. In range: W[k] is v[127−16k:112−16k] with zero high bits, so W[2m] and W[2m+1] are the halves of
INT[3−m]; ECODE is 0 and nothing else changes, VALID neither. Out of range: VALUE_ERROR and no result. -/
def Obligations.IntegerToWordsResult : Prop :=
  encode (.i2w .inRange 0) = 0x00000003 ∧ ∀ (s : State) (r : RangeTag) (c : BitVec 5), s.fault = false →
    encode (.i2w r c) = 0#19 ++ c ++ 0#2 ++ rangeBits r ++ 0x3#4 ∧
    (r = .inRange → ∃ t, exec (.i2w r c) s = .next t ∧
      (∀ k : Fin 8, t.w[k] = ((intValue s).extractLsb' (112 - 16 * k.val) 16).setWidth 32) ∧
      (∀ m : Fin 4, t.w[2 * m.val]'(by omega) = (s.int[3 - m].extractLsb' 16 16).setWidth 32 ∧
        t.w[2 * m.val + 1]'(by omega) = (s.int[3 - m].extractLsb' 0 16).setWidth 32) ∧
      t = { s with w := t.w, ecode := 0 }) ∧
    (r = .above ∨ r = .below → exec (.i2w r c) s = .next { s with ecode := 1, err := true }) ∧
    (r = .reserved → exec (.i2w r c) s = .next { s with ecode := 3, err := true })

/-- W2I (R91), its word and every form. COUNT = 8 and every lane at most 0xFFFF: IntValue() is the sum of W[k] << 16(7−k), and INT[i] is
W[6−2i][15:0] << 16 | W[7−2i][15:0]; ECODE is 0 and nothing but INT changes. Otherwise RANGE_ERROR and no result. -/
def Obligations.WordsToIntegerResult : Prop :=
  encode (.w2i .inRange 8) = 0x00000804 ∧ ∀ (s : State) (r : RangeTag) (c : BitVec 5), s.fault = false →
    encode (.w2i r c) = 0#19 ++ c ++ 0#2 ++ rangeBits r ++ 0x4#4 ∧
    (r ≠ .reserved → c = 8 → (∀ k : Fin 8, s.w[k].toNat ≤ 0xFFFF) → ∃ t, exec (.w2i r c) s = .next t ∧
      (intValue t).toNat = ∑ k : Fin 8, s.w[k].toNat * 2 ^ (16 * (7 - k.val)) ∧
      (∀ i : Fin 4, t.int[i] =
        (s.w[6 - 2 * i.val]'(by omega)).extractLsb' 0 16 ++ (s.w[7 - 2 * i.val]'(by omega)).extractLsb' 0 16) ∧
      t = { s with int := t.int, ecode := 0 }) ∧
    (r ≠ .reserved → (c ≠ 8 ∨ ∃ k : Fin 8, 0xFFFF < s.w[k].toNat) →
      exec (.w2i r c) s = .next { s with ecode := 2, err := true }) ∧
    (r = .reserved → exec (.w2i r c) s = .next { s with ecode := 3, err := true })

/-- VW (R92), its word and every form: VALID says whether COUNT is 8 and every lane is at most 0xFFFF, ECODE is 0, nothing else
changes. -/
def Obligations.ValidateWordsResult : Prop :=
  encode (.vw .inRange 8) = 0x00000805 ∧ ∀ (s : State) (r : RangeTag) (c : BitVec 5), s.fault = false →
    encode (.vw r c) = 0#19 ++ c ++ 0#2 ++ rangeBits r ++ 0x5#4 ∧
    (r ≠ .reserved → exec (.vw r c) s =
      .next { s with valid := decide (c = 8 ∧ ∀ k : Fin 8, s.w[k].toNat ≤ 0xFFFF), ecode := 0 }) ∧
    (r = .reserved → exec (.vw r c) s = .next { s with ecode := 3, err := true })

/-! ## The laws of the families -/

/-- I2P and P2I are inverse (R82): a P2I on the packed registers that I2P left, whatever else happened between, brings the
integer back, and an I2P on the integer that P2I left brings the packed registers back. -/
def Obligations.PackedRoundTrip : Prop :=
  ∀ (s : State) (c : BitVec 5) (r : RangeTag), s.fault = false → r ≠ .reserved →
    (∃ t, exec (.i2p .inRange c) s = .next t ∧ t.ecode = 0 ∧ ∀ t' : State, t'.fault = false → t'.pk = t.pk →
      ∃ u, exec (.p2i r 16) t' = .next u ∧ u.ecode = 0 ∧ intValue u = intValue s) ∧
    (∃ t, exec (.p2i r 16) s = .next t ∧ t.ecode = 0 ∧ ∀ t' : State, t'.fault = false → t'.int = t.int →
      ∃ u, exec (.i2p .inRange c) t' = .next u ∧ u.ecode = 0 ∧ u.pk = s.pk)

/-- I2W and W2I are inverse, the second direction for lanes that are valid words (R93). -/
def Obligations.WordRoundTrip : Prop :=
  ∀ (s : State) (c : BitVec 5) (r : RangeTag), s.fault = false → r ≠ .reserved →
    (∃ t, exec (.i2w .inRange c) s = .next t ∧ t.ecode = 0 ∧ ∀ t' : State, t'.fault = false → t'.w = t.w →
      ∃ u, exec (.w2i r 8) t' = .next u ∧ u.ecode = 0 ∧ intValue u = intValue s) ∧
    ((∀ k : Fin 8, s.w[k].toNat ≤ 0xFFFF) →
      ∃ t, exec (.w2i r 8) s = .next t ∧ t.ecode = 0 ∧ ∀ t' : State, t'.fault = false → t'.int = t.int →
        ∃ u, exec (.i2w .inRange c) t' = .next u ∧ u.ecode = 0 ∧ u.w = s.w)

/-- For the same COUNT and lanes, VW gives VALID = 1 exactly when W2I succeeds (R93). -/
def Obligations.ValidateAgreesWithWordsToInteger : Prop :=
  ∀ (s : State) (c : BitVec 5) (r r' : RangeTag), s.fault = false → r ≠ .reserved → r' ≠ .reserved →
    ∃ t u, exec (.vw r c) s = .next t ∧ exec (.w2i r' c) s = .next u ∧ (t.valid = true ↔ u.ecode = 0)

/-- After I2W, W[2m] << 16 | W[2m+1] is the PK[m] that I2P gives from the same INT0..INT3 (R95). -/
def Obligations.WordsAreHalvesOfGroups : Prop :=
  ∀ (s : State) (c c' : BitVec 5), s.fault = false →
    ∃ t u, exec (.i2w .inRange c) s = .next t ∧ exec (.i2p .inRange c') s = .next u ∧
      ∀ m : Fin 4, u.pk[m] = t.w[2 * m.val]'(by omega) <<< 16 ||| t.w[2 * m.val + 1]'(by omega)

/-- I2W moves each lane on its own: if two integers agree in bits 127−16k..112−16k, I2W leaves the same lane k (R94). -/
def Obligations.IntegerToWordsIsLanewise : Prop :=
  ∀ (s s' : State) (c c' : BitVec 5) (k : Fin 8), s.fault = false → s'.fault = false →
    (intValue s).extractLsb' (112 - 16 * k.val) 16 = (intValue s').extractLsb' (112 - 16 * k.val) 16 →
    ∃ t t', exec (.i2w .inRange c) s = .next t ∧ exec (.i2w .inRange c') s' = .next t' ∧ t.w[k] = t'.w[k]

/-! ## Failures, flags and who writes what -/

/-- A command that runs and fails changes STATUS only: its code, ERR, and FAULT for CONTRACT_VIOLATION and no other
(R111). -/
def Obligations.FailingCommandChangesOnlyStatus : Prop :=
  ∀ (i : Instr) (s t : State), s.fault = false → exec i s = .next t → t.ecode ≠ 0 →
    t = { s with ecode := t.ecode, err := true, fault := t.fault } ∧ (t.fault = true ↔ t.ecode = 4)

/-- The outcome of every CMD write, said of the word's own bits, in the order of R112, with each code exactly on its cause
(R110): FAULT = 1 ignores the write; then an illegal word gives 3; then the command's own check gives 1, 2 or 4; else
the code is 0. -/
def Obligations.CmdWriteOutcomeAndPriority : Prop :=
  ∀ (s t : State) (c : Word) (rest : List HostEvent),
    s.pending = .transfer (commandTransfer s.base c) :: rest → step s = .next t →
    (s.fault = true → SameRegisters s t) ∧
    (s.fault = false →
      (t.ecode = 3 ↔ IllegalWord c) ∧
      (t.ecode = 1 ↔ ¬IllegalWord c ∧ (c.extractLsb' 0 4 = 1#4 ∨ c.extractLsb' 0 4 = 3#4) ∧ c.extractLsb' 4 2 ≠ 0) ∧
      (t.ecode = 2 ↔ ¬IllegalWord c ∧ c.extractLsb' 0 4 = 4#4 ∧
        (c.extractLsb' 8 5 ≠ 8#5 ∨ ∃ k : Fin 8, 0xFFFF < s.w[k].toNat)) ∧
      (t.ecode = 4 ↔ ¬IllegalWord c ∧ c.extractLsb' 0 4 = 2#4 ∧ c.extractLsb' 8 5 ≠ 16#5) ∧
      (t.ecode = 0 ∨ t.ecode = 1 ∨ t.ecode = 2 ∨ t.ecode = 3 ∨ t.ecode = 4))

/-- What each command can write (R34, R68): INT only P2I and W2I, PK only I2P, the lanes only I2W, VALID only VW, FAULT only
P2I; ERR is never cleared; and no command touches the host's side or BASE. Failing forms included. -/
def Obligations.CommandFrame : Prop :=
  ∀ (i : Instr) (s t : State), exec i s = .next t →
    (t.int ≠ s.int → i = .p2i i.range i.count ∨ i = .w2i i.range i.count) ∧
    (t.pk ≠ s.pk → i = .i2p i.range i.count) ∧
    (t.w ≠ s.w → i = .i2w i.range i.count) ∧
    (t.valid ≠ s.valid → i = .vw i.range i.count) ∧
    (t.fault ≠ s.fault → i = .p2i i.range i.count ∧ i.count ≠ 16 ∧ t.fault = true) ∧
    (t.err ≠ s.err → t.err = true ∧ t.ecode ≠ 0) ∧
    t.base = s.base ∧ t.pending = s.pending ∧ t.resp = s.resp ∧ t.draws = s.draws

/-- Commands have no hidden input (R33): on two states with the same registers a command leaves the same registers, whatever the
host still has to deliver. -/
def Obligations.CommandsDependOnRegistersOnly : Prop :=
  ∀ (i : Instr) (s s' : State), SameRegisters s s' →
    ∃ t t', exec i s = .next t ∧ exec i s' = .next t' ∧ SameRegisters t t'

/-- A command whose integer is tagged out of range ignores INT0..INT3 (R66): any other integer gives the same STATUS and
the same results. -/
def Obligations.OutOfRangeTagIgnoresTheInteger : Prop :=
  ∀ (s : State) (v : Address) (r : RangeTag) (c : BitVec 5), r = .above ∨ r = .below →
    ∃ t u t' u', exec (.i2p r c) s = .next t ∧ exec (.i2p r c) (setInt v s) = .next u ∧ u = setInt v t ∧
      exec (.i2w r c) s = .next t' ∧ exec (.i2w r c) (setInt v s) = .next u' ∧ u' = setInt v t'

/-- VALID (R27): but for reset only a VW that runs changes it, and every VW that runs leaves in it whether the sequence is
valid. -/
def Obligations.OnlyValidateWritesValid : Prop :=
  ∀ s t : State, step s = .next t → ¬ResetsNext s →
    (t.valid ≠ s.valid → ∃ c r n, WritesCmd s c ∧ s.fault = false ∧ decodeWord c = .ok (.vw r n)) ∧
    ∀ c r n, WritesCmd s c → s.fault = false → decodeWord c = .ok (.vw r n) →
      (t.valid = true ↔ n = 8 ∧ ∀ k : Fin 8, s.w[k].toNat ≤ 0xFFFF)

/-- ECODE (R28): but for reset only a CMD write that FAULT does not ignore changes it; every such write leaves in it the code of
its outcome (R110, R112), one of 0 to 4, with ERR as it was if that is 0 and set if it is not; while FAULT is 1 nothing but
reset changes it. -/
def Obligations.EcodeIsTheLastCommandsOutcome : Prop :=
  ∀ s t : State, step s = .next t → ¬ResetsNext s →
    (t.ecode ≠ s.ecode → s.fault = false ∧ ∃ c, WritesCmd s c) ∧
    (∀ c, WritesCmd s c → s.fault = false →
      t.ecode = errorBits (reportedCode c s) ∧ t.ecode.toNat ≤ 4 ∧
      (t.ecode = 0 → t.err = s.err) ∧ (t.ecode ≠ 0 → t.err = true)) ∧
    (s.fault = true → t.ecode = s.ecode)

/-- ERR (R29) is sticky: a failing command sets it and, but for reset, nothing else does; a STATUS write with bit 8 = 1 clears it,
one with bit 8 = 0 leaves it, and nothing else clears it. -/
def Obligations.ErrIsSticky : Prop :=
  ∀ s t : State, step s = .next t → ¬ResetsNext s →
    (s.err = true → t.err = false →
      ∃ v rest, s.pending = .transfer (regWrite s.base 0x04 v) :: rest ∧ v.getLsbD 8 = true) ∧
    (s.err = false → t.err = true → s.fault = false ∧ t.ecode ≠ 0 ∧ ∃ c, WritesCmd s c) ∧
    (∀ c, WritesCmd s c → s.fault = false → t.ecode ≠ 0 → t.err = true) ∧
    (∀ v rest, s.pending = .transfer (regWrite s.base 0x04 v) :: rest → t.err = (s.err && !v.getLsbD 8))

/-- FAULT (R30, R115): a P2I whose presented length is not 16 sets it, together with ERR and ECODE = 4, and nothing else does;
nothing but reset clears it; while it is 1 every CMD write is ignored. -/
def Obligations.FaultLatchIsSetByP2iAndClearedByReset : Prop :=
  ∀ s t : State, step s = .next t →
    (s.fault = false → t.fault = true →
      t.ecode = 4 ∧ t.err = true ∧ ∃ c r n, WritesCmd s c ∧ decodeWord c = .ok (.p2i r n) ∧ n ≠ 16) ∧
    (∀ c r n, WritesCmd s c → s.fault = false → decodeWord c = .ok (.p2i r n) → n ≠ 16 →
      t.fault = true ∧ t.ecode = 4 ∧ t.err = true) ∧
    (s.fault = true → t.fault = false → ResetsNext s) ∧
    (ResetsNext s → t.fault = false) ∧
    (s.fault = true → ∀ c, WritesCmd s c → SameRegisters s t)

/-- While FAULT = 1 (R116): every CMD write is ignored; reads, writes of the data registers and the clear of ERR work as
ever, and FAULT stays. In a legal state ECODE is then 4, and keeps it. -/
def Obligations.FaultedBlockIgnoresCommands : Prop :=
  ∀ (s : State) (rest : List HostEvent) (v : Word), s.fault = true →
    (LegalState s → s.ecode = 4) ∧
    (s.pending = .transfer (commandTransfer s.base v) :: rest →
      step s = .next { s with pending := rest, resp := .done }) ∧
    (∀ r, s.pending = .transfer (regRead s.base (regOffset r)) :: rest →
      step s = .next { s with pending := rest, resp := .data (readReg r s) }) ∧
    (∀ i, s.pending = .transfer (regWrite s.base (regOffset (.int i)) v) :: rest →
      step s = .next { s with pending := rest, int := s.int.set i v, resp := .done }) ∧
    (∀ j, s.pending = .transfer (regWrite s.base (regOffset (.pk j)) v) :: rest →
      step s = .next { s with pending := rest, pk := s.pk.set j v, resp := .done }) ∧
    (∀ k, s.pending = .transfer (regWrite s.base (regOffset (.w k)) v) :: rest →
      step s = .next { s with pending := rest, w := s.w.set k v, resp := .done }) ∧
    (s.pending = .transfer (regWrite s.base (regOffset .status) v) :: rest →
      step s = .next { s with pending := rest, err := s.err && !v.getLsbD 8, resp := .done })

/-- A command in a faulted state changes nothing (R63's first check). -/
def Obligations.FaultedStateRunsNoCommand : Prop :=
  ∀ (i : Instr) (s : State), Faulted s → exec i s = .next s

/-! ## Registers and the bus -/

/-- STATUS reads FAULT << 9 | ERR << 8 | ECODE << 4 | VALID (R26). -/
def Obligations.StatusReadsItsFields : Prop :=
  ∀ s : State, (readReg .status s).toNat =
    s.fault.toNat * 2 ^ 9 + s.err.toNat * 2 ^ 8 + s.ecode.toNat * 2 ^ 4 + s.valid.toNat

/-- STATUS bits 3:1 and 31:10 read as 0 always, and no write changes that (R31). -/
def Obligations.ReservedStatusBitsReadZero : Prop :=
  ∀ (s : State) (b : Nat), (1 ≤ b ∧ b ≤ 3) ∨ 10 ≤ b →
    (readReg .status s).getLsbD b = false ∧ ∀ v, (readReg .status (writeStatus v s)).getLsbD b = false

/-- CONFIG reads 0x00081080, its fields WIDTH, WORD_SIZE, NUM_WORDS and zero, and a write to it is ignored with no error
(R32). -/
def Obligations.ConfigIsConstant : Prop :=
  (∀ s : State, readReg .config s = 0x00081080) ∧
  (Config.configWord.extractLsb' 0 8).toNat = Config.width ∧
  (Config.configWord.extractLsb' 8 8).toNat = Config.wordSize ∧
  (Config.configWord.extractLsb' 16 8).toNat = Config.numWords ∧
  Config.configWord.extractLsb' 24 8 = 0 ∧
  Config.maxInt = 2 ^ Config.width - 1 ∧ Config.maxWord = 2 ^ Config.wordSize - 1 ∧
  ∀ (s : State) (v : Word) (rest : List HostEvent),
    s.pending = .transfer (regWrite s.base 0x08 v) :: rest →
    step s = .next { s with pending := rest, resp := .done }

/-- The register map (R42): the offset of each register leads to it, and no other offset does; the window's other aligned
offsets are 0x0C and 0x50 to 0xFC. -/
def Obligations.RegisterMapIsExact : Prop :=
  (∀ (off : Nat) (r : Reg), regAt off = some r ↔ off = regOffset r) ∧
  ∀ off : Nat, off < 256 → (regAt off = none ↔ off % 4 ≠ 0 ∨ off = 0x0C ∨ 0x50 ≤ off)

/-- A transfer of another size than 4, at an offset that is no multiple of 4, at 0x0C or from 0x50 on gets the bus's error
response and has no other effect (R43, R45, R117). -/
def Obligations.RejectedTransferHasNoEffect : Prop :=
  ∀ (s : State) (off size : Nat) (a : Access) (rest : List HostEvent), off < 256 →
    s.pending = .transfer { addr := s.base + off, size := size, access := a } :: rest →
    size ≠ 4 ∨ off % 4 ≠ 0 ∨ off = 0x0C ∨ 0x50 ≤ off →
    step s = .next { s with pending := rest, resp := .busError }

/-- RegRead (R46): the host gets the register's value, CMD's being 0, and no state changes. -/
def Obligations.ReadReturnsTheRegister : Prop :=
  ∀ (s : State) (r : Reg) (rest : List HostEvent),
    s.pending = .transfer (regRead s.base (regOffset r)) :: rest →
    step s = .next { s with
      pending := rest
      resp := .data (match r with
        | .cmd => 0
        | .status => statusWord s
        | .config => 0x00081080
        | .int i => s.int[i]
        | .pk j => s.pk[j]
        | .w k => s.w[k]) }

/-- A write of a data register (R47) puts all 32 bits into it: it then reads as what was written, every other register reads
as before, STATUS too, and no command runs. -/
def Obligations.DataWriteIsReadBack : Prop :=
  ∀ (s : State) (r : Reg) (v : Word) (rest : List HostEvent), r ≠ .cmd → r ≠ .status → r ≠ .config →
    s.pending = .transfer (regWrite s.base (regOffset r) v) :: rest →
    ∃ t, step s = .next t ∧ t.pending = rest ∧ t.resp = .done ∧ readReg r t = v ∧ ∀ r', r' ≠ r → readReg r' t = readReg r' s

/-- A STATUS write (R101) clears ERR if bit 8 is 1 and does nothing else, in a faulted state too. -/
def Obligations.StatusWriteClearsErrOnly : Prop :=
  ∀ (s : State) (v : Word) (rest : List HostEvent),
    s.pending = .transfer (regWrite s.base 0x04 v) :: rest →
    step s = .next { s with pending := rest, err := if v.getLsbD 8 then false else s.err, resp := .done }

/-- An access outside the window is not the PWC's: its registers stay (R41; that such an access stands in the pending list at
all is the model's, log entry 3). -/
def Obligations.AccessOutsideTheWindowIsIgnored : Prop :=
  ∀ (s : State) (t : Transfer) (rest : List HostEvent), s.pending = .transfer t :: rest →
    t.addr < s.base ∨ s.base + 256 ≤ t.addr →
    step s = .next { s with pending := rest, resp := .elsewhere }

/-- Nothing depends on BASE (R7): the same access at the same offset of a block placed elsewhere does the same and gets the
same response. -/
def Obligations.PlacementDoesNotMatter : Prop :=
  ∀ (s : State) (b off size : Nat) (a : Access), off < 256 →
    ∃ t, step { s with pending := [.transfer { addr := s.base + off, size := size, access := a }] } = .next t ∧
      step { s with base := b, pending := [.transfer { addr := b + off, size := size, access := a }] } =
        .next { t with base := b }

/-! ## Reset and the legal states -/

/-- After reset every register has R35's value, for every placement of the block. -/
def Obligations.ResetValues : Prop :=
  (∀ (b : Nat) (i j : Fin 4) (k : Fin 8),
    (State.resetAt b).int[i] = 0 ∧ intValue (State.resetAt b) = 0 ∧ (State.resetAt b).pk[j] = 0 ∧
    (State.resetAt b).w[k] = 0 ∧ (State.resetAt b).valid = false ∧ (State.resetAt b).ecode = 0 ∧
    (State.resetAt b).err = false ∧ (State.resetAt b).fault = false ∧
    readReg .status (State.resetAt b) = 0 ∧ readReg .config (State.resetAt b) = 0x00081080 ∧
    readReg .cmd (State.resetAt b) = 0) ∧
  ∃ b, State.reset = State.resetAt b

/-- Reset from any state, with or without a transfer in progress (R130): every register takes its reset value, FAULT too; an
abandoned transfer gets no response or an error response. -/
def Obligations.ResetOverwritesEveryRegister : Prop :=
  ∀ (s : State) (rest : List HostEvent) (a : Transfer),
    (s.pending = .reset :: rest → ∃ t, step s = .next t ∧ SameRegisters t (State.resetAt s.base) ∧ t.pending = rest ∧
      t.base = s.base) ∧
    (s.pending = .resetDuring a :: rest → ∃ t, step s = .next t ∧ SameRegisters t (State.resetAt s.base) ∧
      t.pending = rest ∧ t.base = s.base ∧ (t.resp = .silent ∨ t.resp = .busError))

/-- The state after reset is legal, for every placement that R7 allows. -/
def Obligations.ResetStateIsLegal : Prop :=
  LegalState State.reset ∧ ∀ b : Nat, b % 256 = 0 → LegalState (State.resetAt b)

/-- Every step keeps the legal states: ECODE is never a reserved code, FAULT stands with ECODE = 4 exactly, and BASE stays
aligned (R7, R28, R115, R116). -/
def Obligations.StepKeepsLegalStates : Prop :=
  ∀ s t : State, LegalState s → step s = .next t → LegalState t

/-! ## The block does what the document's functions do

The functions `doc…` are the model's reading of the document (log entry 22), with the choices of 90_conflicts.md. -/

/-- I2P is `integer_to_packed` on every software integer that the host presents by R66. The function is the model's reading (log
entry 22), with ValueError outside [0, MAX_INT] by C1 and C2. -/
def Obligations.IntegerToPackedRefinesTheDocument : Prop :=
  ∀ (v : Int) (s : State) (c : BitVec 5), s.fault = false → PresentsInteger v s →
    ∃ t, exec (.i2p (rangeTagOf v) c) s = .next t ∧
      match docIntegerToPacked v with
      | .ok bytes => t.ecode = 0 ∧ bytes = List.ofFn fun k : Fin 16 => (packedByte t k).toNat
      | .error e => t.ecode = errorBits e ∧ t.pk = s.pk

/-- P2I is `packed_to_integer` on every sequence of bytes that the host presents by R67. The function is the model's reading (log
entry 22), with a contract violation for another length by C4, and the groups' order by C6. -/
def Obligations.PackedToIntegerRefinesTheDocument : Prop :=
  ∀ (bytes : List Byte) (s : State) (r : RangeTag), s.fault = false → r ≠ .reserved → PresentsBytes bytes s →
    ∃ t, exec (.p2i r (presentedCount bytes.length)) s = .next t ∧
      match docPackedToInteger bytes with
      | .ok v => t.ecode = 0 ∧ (intValue t).toNat = v
      | .error e => t.ecode = errorBits e ∧ t.fault = true ∧ t.int = s.int

/-- I2W is `integer_to_words` on every software integer that the host presents by R66. The function is the model's reading (log
entry 22), with ValueError outside [0, MAX_INT] by C1. -/
def Obligations.IntegerToWordsRefinesTheDocument : Prop :=
  ∀ (v : Int) (s : State) (c : BitVec 5), s.fault = false → PresentsInteger v s →
    ∃ t, exec (.i2w (rangeTagOf v) c) s = .next t ∧
      match docIntegerToWords v with
      | .ok words => t.ecode = 0 ∧ words = List.ofFn fun k : Fin 8 => t.w[k].toNat
      | .error e => t.ecode = errorBits e ∧ t.w = s.w

/-- W2I is `words_to_integer` on every sequence of software words, of any length and any integers, that the host presents
by R44 and R67. The function is the model's reading (log entry 22), with RangeError on an invalid sequence by C3. -/
def Obligations.WordsToIntegerRefinesTheDocument : Prop :=
  ∀ (words : List Int) (s : State) (r : RangeTag), s.fault = false → r ≠ .reserved → PresentsWords words s →
    ∃ t, exec (.w2i r (presentedCount words.length)) s = .next t ∧
      match docWordsToInteger words with
      | .ok v => t.ecode = 0 ∧ (intValue t).toNat = v
      | .error e => t.ecode = errorBits e ∧ t.int = s.int

/-- VW is `validate_words` on every sequence of software words that the host presents by R44 and R67. The function is the model's
reading (log entry 22). -/
def Obligations.ValidateWordsRefinesTheDocument : Prop :=
  ∀ (words : List Int) (s : State) (r : RangeTag), s.fault = false → r ≠ .reserved → PresentsWords words s →
    ∃ t, exec (.vw r (presentedCount words.length)) s = .next t ∧ t.ecode = 0 ∧
      (t.valid = true ↔ docValidateWords words)

/-! ## The host notation -/

/-- What the assembler makes of a command line is a legal command with the line's mnemonic, and it refuses exactly the lines
with `range=3` or more or a count above 31 (R72). -/
def Obligations.AssemblerEmitsLegalWords : Prop :=
  ∀ (m : Mnemonic) (range count : Option Nat),
    (assembleCommand m range count = none ↔ 3 ≤ range.getD 0 ∨ 32 ≤ count.getD (defaultCount m)) ∧
    ∀ i, assembleCommand m range count = some i →
      i = mnemonicCommand m i.range i.count ∧ decodeWord (encode i) = .ok i

/-- The four transfers of `LDI v` leave IntValue() = v and change no other register (R73). -/
def Obligations.LoadIntegerLineLoadsTheInteger : Prop :=
  ∀ (s : State) (v : Address), ∃ l t, assemble s.base (.ldi v) = some l ∧
    runSteps l.length { s with pending := l.map .transfer ++ s.pending } = .next t ∧
    intValue t = v ∧ t = { s with int := t.int, resp := .done }
end

