-- ==== Sys2Proof/Laws/Bits.lean ====
section
/-! SUPPORT. Concatenations and bit fields as numbers (00_scope.md R10: `{a, b}` has a in the high bits, `v[hi:lo]` is a
quotient and a remainder), so that a claim about bits becomes one about sums and quotients. -/

namespace Sys2Proof

/-- `{x, y}` as a number. -/
theorem toNat_concat {n m : Nat} (x : BitVec n) (y : BitVec m) : (x ++ y).toNat = x.toNat * 2 ^ m + y.toNat := by
  rw [BitVec.toNat_append, Nat.shiftLeft_eq, Nat.mul_comm, ← Nat.two_pow_add_eq_or_of_lt y.isLt]

/-- `v[lo+n−1:lo]` as a number. -/
theorem toNat_field {w : Nat} (v : BitVec w) (lo n : Nat) : (v.extractLsb' lo n).toNat = v.toNat / 2 ^ lo % 2 ^ n := by
  rw [BitVec.extractLsb'_toNat, Nat.shiftRight_eq_div_pow]

/-- A field of a field is a field. -/
theorem field_field {w : Nat} (v : BitVec w) (a n b m : Nat) (h : b + m ≤ n) :
    (v.extractLsb' a n).extractLsb' b m = v.extractLsb' (a + b) m := by
  ext i hi
  have : b + i < n := by omega
  simp [BitVec.getElem_extractLsb', this, Nat.add_assoc]

end Sys2Proof
end

