-- ==== Sys2Proof/Laws/State.lean ====
section
/-! SUPPORT. What each update of the state leaves in each field, so that no proof unfolds a record update. -/

namespace Sys2Proof.Machine

/-! `succeed` (R13) -/

@[simp] theorem succeed_int (s : State) : (succeed s).int = s.int := rfl
@[simp] theorem succeed_pk (s : State) : (succeed s).pk = s.pk := rfl
@[simp] theorem succeed_w (s : State) : (succeed s).w = s.w := rfl
@[simp] theorem succeed_valid (s : State) : (succeed s).valid = s.valid := rfl
@[simp] theorem succeed_ecode (s : State) : (succeed s).ecode = errorBits .ok := rfl
@[simp] theorem succeed_err (s : State) : (succeed s).err = s.err := rfl
@[simp] theorem succeed_fault (s : State) : (succeed s).fault = s.fault := rfl
@[simp] theorem succeed_base (s : State) : (succeed s).base = s.base := rfl
@[simp] theorem succeed_pending (s : State) : (succeed s).pending = s.pending := rfl
@[simp] theorem succeed_resp (s : State) : (succeed s).resp = s.resp := rfl
@[simp] theorem succeed_draws (s : State) : (succeed s).draws = s.draws := rfl

/-! `fail` (R13, R111) -/

@[simp] theorem fail_int (e : ErrorCode) (s : State) : (fail e s).int = s.int := rfl
@[simp] theorem fail_pk (e : ErrorCode) (s : State) : (fail e s).pk = s.pk := rfl
@[simp] theorem fail_w (e : ErrorCode) (s : State) : (fail e s).w = s.w := rfl
@[simp] theorem fail_valid (e : ErrorCode) (s : State) : (fail e s).valid = s.valid := rfl
@[simp] theorem fail_ecode (e : ErrorCode) (s : State) : (fail e s).ecode = errorBits e := rfl
@[simp] theorem fail_err (e : ErrorCode) (s : State) : (fail e s).err = true := rfl
@[simp] theorem fail_fault (e : ErrorCode) (s : State) : (fail e s).fault = s.fault := rfl
@[simp] theorem fail_base (e : ErrorCode) (s : State) : (fail e s).base = s.base := rfl
@[simp] theorem fail_pending (e : ErrorCode) (s : State) : (fail e s).pending = s.pending := rfl
@[simp] theorem fail_resp (e : ErrorCode) (s : State) : (fail e s).resp = s.resp := rfl
@[simp] theorem fail_draws (e : ErrorCode) (s : State) : (fail e s).draws = s.draws := rfl

/-! `latchFault` (R13, R115) -/

@[simp] theorem latchFault_int (s : State) : (latchFault s).int = s.int := rfl
@[simp] theorem latchFault_pk (s : State) : (latchFault s).pk = s.pk := rfl
@[simp] theorem latchFault_w (s : State) : (latchFault s).w = s.w := rfl
@[simp] theorem latchFault_valid (s : State) : (latchFault s).valid = s.valid := rfl
@[simp] theorem latchFault_ecode (s : State) : (latchFault s).ecode = errorBits .contractViolation := rfl
@[simp] theorem latchFault_err (s : State) : (latchFault s).err = true := rfl
@[simp] theorem latchFault_fault (s : State) : (latchFault s).fault = true := rfl
@[simp] theorem latchFault_base (s : State) : (latchFault s).base = s.base := rfl
@[simp] theorem latchFault_pending (s : State) : (latchFault s).pending = s.pending := rfl
@[simp] theorem latchFault_resp (s : State) : (latchFault s).resp = s.resp := rfl
@[simp] theorem latchFault_draws (s : State) : (latchFault s).draws = s.draws := rfl

/-! `setInt` (R11) -/

@[simp] theorem setInt_int (v : Address) (s : State) : (setInt v s).int = intLimbs v := rfl
@[simp] theorem setInt_pk (v : Address) (s : State) : (setInt v s).pk = s.pk := rfl
@[simp] theorem setInt_w (v : Address) (s : State) : (setInt v s).w = s.w := rfl
@[simp] theorem setInt_valid (v : Address) (s : State) : (setInt v s).valid = s.valid := rfl
@[simp] theorem setInt_ecode (v : Address) (s : State) : (setInt v s).ecode = s.ecode := rfl
@[simp] theorem setInt_err (v : Address) (s : State) : (setInt v s).err = s.err := rfl
@[simp] theorem setInt_fault (v : Address) (s : State) : (setInt v s).fault = s.fault := rfl
@[simp] theorem setInt_base (v : Address) (s : State) : (setInt v s).base = s.base := rfl
@[simp] theorem setInt_pending (v : Address) (s : State) : (setInt v s).pending = s.pending := rfl
@[simp] theorem setInt_resp (v : Address) (s : State) : (setInt v s).resp = s.resp := rfl
@[simp] theorem setInt_draws (v : Address) (s : State) : (setInt v s).draws = s.draws := rfl

/-! `setPacked` (R80) -/

@[simp] theorem setPacked_int (v : Address) (s : State) : (setPacked v s).int = s.int := rfl
@[simp] theorem setPacked_pk (v : Address) (s : State) : (setPacked v s).pk = packGroups v := rfl
@[simp] theorem setPacked_w (v : Address) (s : State) : (setPacked v s).w = s.w := rfl
@[simp] theorem setPacked_valid (v : Address) (s : State) : (setPacked v s).valid = s.valid := rfl
@[simp] theorem setPacked_ecode (v : Address) (s : State) : (setPacked v s).ecode = s.ecode := rfl
@[simp] theorem setPacked_err (v : Address) (s : State) : (setPacked v s).err = s.err := rfl
@[simp] theorem setPacked_fault (v : Address) (s : State) : (setPacked v s).fault = s.fault := rfl
@[simp] theorem setPacked_base (v : Address) (s : State) : (setPacked v s).base = s.base := rfl
@[simp] theorem setPacked_pending (v : Address) (s : State) : (setPacked v s).pending = s.pending := rfl
@[simp] theorem setPacked_resp (v : Address) (s : State) : (setPacked v s).resp = s.resp := rfl
@[simp] theorem setPacked_draws (v : Address) (s : State) : (setPacked v s).draws = s.draws := rfl

/-! `setLanes` (R90) -/

@[simp] theorem setLanes_int (v : Address) (s : State) : (setLanes v s).int = s.int := rfl
@[simp] theorem setLanes_pk (v : Address) (s : State) : (setLanes v s).pk = s.pk := rfl
@[simp] theorem setLanes_w (v : Address) (s : State) : (setLanes v s).w = laneWords v := rfl
@[simp] theorem setLanes_valid (v : Address) (s : State) : (setLanes v s).valid = s.valid := rfl
@[simp] theorem setLanes_ecode (v : Address) (s : State) : (setLanes v s).ecode = s.ecode := rfl
@[simp] theorem setLanes_err (v : Address) (s : State) : (setLanes v s).err = s.err := rfl
@[simp] theorem setLanes_fault (v : Address) (s : State) : (setLanes v s).fault = s.fault := rfl
@[simp] theorem setLanes_base (v : Address) (s : State) : (setLanes v s).base = s.base := rfl
@[simp] theorem setLanes_pending (v : Address) (s : State) : (setLanes v s).pending = s.pending := rfl
@[simp] theorem setLanes_resp (v : Address) (s : State) : (setLanes v s).resp = s.resp := rfl
@[simp] theorem setLanes_draws (v : Address) (s : State) : (setLanes v s).draws = s.draws := rfl

/-! `writeInt` (R47) -/

@[simp] theorem writeInt_int (i : Fin 4) (v : Word) (s : State) : (writeInt i v s).int = s.int.set i v := rfl
@[simp] theorem writeInt_pk (i : Fin 4) (v : Word) (s : State) : (writeInt i v s).pk = s.pk := rfl
@[simp] theorem writeInt_w (i : Fin 4) (v : Word) (s : State) : (writeInt i v s).w = s.w := rfl
@[simp] theorem writeInt_valid (i : Fin 4) (v : Word) (s : State) : (writeInt i v s).valid = s.valid := rfl
@[simp] theorem writeInt_ecode (i : Fin 4) (v : Word) (s : State) : (writeInt i v s).ecode = s.ecode := rfl
@[simp] theorem writeInt_err (i : Fin 4) (v : Word) (s : State) : (writeInt i v s).err = s.err := rfl
@[simp] theorem writeInt_fault (i : Fin 4) (v : Word) (s : State) : (writeInt i v s).fault = s.fault := rfl
@[simp] theorem writeInt_base (i : Fin 4) (v : Word) (s : State) : (writeInt i v s).base = s.base := rfl
@[simp] theorem writeInt_pending (i : Fin 4) (v : Word) (s : State) : (writeInt i v s).pending = s.pending := rfl
@[simp] theorem writeInt_resp (i : Fin 4) (v : Word) (s : State) : (writeInt i v s).resp = s.resp := rfl
@[simp] theorem writeInt_draws (i : Fin 4) (v : Word) (s : State) : (writeInt i v s).draws = s.draws := rfl

/-! `writePk` (R47) -/

@[simp] theorem writePk_int (j : Fin 4) (v : Word) (s : State) : (writePk j v s).int = s.int := rfl
@[simp] theorem writePk_pk (j : Fin 4) (v : Word) (s : State) : (writePk j v s).pk = s.pk.set j v := rfl
@[simp] theorem writePk_w (j : Fin 4) (v : Word) (s : State) : (writePk j v s).w = s.w := rfl
@[simp] theorem writePk_valid (j : Fin 4) (v : Word) (s : State) : (writePk j v s).valid = s.valid := rfl
@[simp] theorem writePk_ecode (j : Fin 4) (v : Word) (s : State) : (writePk j v s).ecode = s.ecode := rfl
@[simp] theorem writePk_err (j : Fin 4) (v : Word) (s : State) : (writePk j v s).err = s.err := rfl
@[simp] theorem writePk_fault (j : Fin 4) (v : Word) (s : State) : (writePk j v s).fault = s.fault := rfl
@[simp] theorem writePk_base (j : Fin 4) (v : Word) (s : State) : (writePk j v s).base = s.base := rfl
@[simp] theorem writePk_pending (j : Fin 4) (v : Word) (s : State) : (writePk j v s).pending = s.pending := rfl
@[simp] theorem writePk_resp (j : Fin 4) (v : Word) (s : State) : (writePk j v s).resp = s.resp := rfl
@[simp] theorem writePk_draws (j : Fin 4) (v : Word) (s : State) : (writePk j v s).draws = s.draws := rfl

/-! `writeW` (R47) -/

@[simp] theorem writeW_int (k : Fin 8) (v : Word) (s : State) : (writeW k v s).int = s.int := rfl
@[simp] theorem writeW_pk (k : Fin 8) (v : Word) (s : State) : (writeW k v s).pk = s.pk := rfl
@[simp] theorem writeW_w (k : Fin 8) (v : Word) (s : State) : (writeW k v s).w = s.w.set k v := rfl
@[simp] theorem writeW_valid (k : Fin 8) (v : Word) (s : State) : (writeW k v s).valid = s.valid := rfl
@[simp] theorem writeW_ecode (k : Fin 8) (v : Word) (s : State) : (writeW k v s).ecode = s.ecode := rfl
@[simp] theorem writeW_err (k : Fin 8) (v : Word) (s : State) : (writeW k v s).err = s.err := rfl
@[simp] theorem writeW_fault (k : Fin 8) (v : Word) (s : State) : (writeW k v s).fault = s.fault := rfl
@[simp] theorem writeW_base (k : Fin 8) (v : Word) (s : State) : (writeW k v s).base = s.base := rfl
@[simp] theorem writeW_pending (k : Fin 8) (v : Word) (s : State) : (writeW k v s).pending = s.pending := rfl
@[simp] theorem writeW_resp (k : Fin 8) (v : Word) (s : State) : (writeW k v s).resp = s.resp := rfl
@[simp] theorem writeW_draws (k : Fin 8) (v : Word) (s : State) : (writeW k v s).draws = s.draws := rfl

/-! `respond` (R58) -/

@[simp] theorem respond_int (r : Response) (s : State) : (respond r s).int = s.int := rfl
@[simp] theorem respond_pk (r : Response) (s : State) : (respond r s).pk = s.pk := rfl
@[simp] theorem respond_w (r : Response) (s : State) : (respond r s).w = s.w := rfl
@[simp] theorem respond_valid (r : Response) (s : State) : (respond r s).valid = s.valid := rfl
@[simp] theorem respond_ecode (r : Response) (s : State) : (respond r s).ecode = s.ecode := rfl
@[simp] theorem respond_err (r : Response) (s : State) : (respond r s).err = s.err := rfl
@[simp] theorem respond_fault (r : Response) (s : State) : (respond r s).fault = s.fault := rfl
@[simp] theorem respond_base (r : Response) (s : State) : (respond r s).base = s.base := rfl
@[simp] theorem respond_pending (r : Response) (s : State) : (respond r s).pending = s.pending := rfl
@[simp] theorem respond_resp (r : Response) (s : State) : (respond r s).resp = r := rfl
@[simp] theorem respond_draws (r : Response) (s : State) : (respond r s).draws = s.draws := rfl

/-! `resetRegisters` (R35, R130) -/

@[simp] theorem resetRegisters_int (s : State) : (resetRegisters s).int = Vector.replicate 4 0 := rfl
@[simp] theorem resetRegisters_pk (s : State) : (resetRegisters s).pk = Vector.replicate 4 0 := rfl
@[simp] theorem resetRegisters_w (s : State) : (resetRegisters s).w = Vector.replicate 8 0 := rfl
@[simp] theorem resetRegisters_valid (s : State) : (resetRegisters s).valid = false := rfl
@[simp] theorem resetRegisters_ecode (s : State) : (resetRegisters s).ecode = 0 := rfl
@[simp] theorem resetRegisters_err (s : State) : (resetRegisters s).err = false := rfl
@[simp] theorem resetRegisters_fault (s : State) : (resetRegisters s).fault = false := rfl
@[simp] theorem resetRegisters_base (s : State) : (resetRegisters s).base = s.base := rfl
@[simp] theorem resetRegisters_pending (s : State) : (resetRegisters s).pending = s.pending := rfl
@[simp] theorem resetRegisters_resp (s : State) : (resetRegisters s).resp = .silent := rfl
@[simp] theorem resetRegisters_draws (s : State) : (resetRegisters s).draws = s.draws := rfl

/-! `abandonTransfer` (R35, R130) -/

@[simp] theorem abandonTransfer_int (s : State) : (abandonTransfer s).int = Vector.replicate 4 0 := rfl
@[simp] theorem abandonTransfer_pk (s : State) : (abandonTransfer s).pk = Vector.replicate 4 0 := rfl
@[simp] theorem abandonTransfer_w (s : State) : (abandonTransfer s).w = Vector.replicate 8 0 := rfl
@[simp] theorem abandonTransfer_valid (s : State) : (abandonTransfer s).valid = false := rfl
@[simp] theorem abandonTransfer_ecode (s : State) : (abandonTransfer s).ecode = 0 := rfl
@[simp] theorem abandonTransfer_err (s : State) : (abandonTransfer s).err = false := rfl
@[simp] theorem abandonTransfer_fault (s : State) : (abandonTransfer s).fault = false := rfl
@[simp] theorem abandonTransfer_base (s : State) : (abandonTransfer s).base = s.base := rfl
@[simp] theorem abandonTransfer_pending (s : State) : (abandonTransfer s).pending = s.pending := rfl
@[simp] theorem abandonTransfer_resp (s : State) : (abandonTransfer s).resp = if Config.cutGetsError s.draws then .busError else .silent := rfl
@[simp] theorem abandonTransfer_draws (s : State) : (abandonTransfer s).draws = s.draws + 1 := rfl

/-! `resetAt` (R35) -/

@[simp] theorem resetAt_int (b : Nat) : (State.resetAt b).int = Vector.replicate 4 0 := rfl
@[simp] theorem resetAt_pk (b : Nat) : (State.resetAt b).pk = Vector.replicate 4 0 := rfl
@[simp] theorem resetAt_w (b : Nat) : (State.resetAt b).w = Vector.replicate 8 0 := rfl
@[simp] theorem resetAt_valid (b : Nat) : (State.resetAt b).valid = false := rfl
@[simp] theorem resetAt_ecode (b : Nat) : (State.resetAt b).ecode = 0 := rfl
@[simp] theorem resetAt_err (b : Nat) : (State.resetAt b).err = false := rfl
@[simp] theorem resetAt_fault (b : Nat) : (State.resetAt b).fault = false := rfl
@[simp] theorem resetAt_base (b : Nat) : (State.resetAt b).base = b := rfl
@[simp] theorem resetAt_pending (b : Nat) : (State.resetAt b).pending = [] := rfl
@[simp] theorem resetAt_resp (b : Nat) : (State.resetAt b).resp = .silent := rfl
@[simp] theorem resetAt_draws (b : Nat) : (State.resetAt b).draws = 0 := rfl

/-! `writeStatus` (R101): ERR only. -/

@[simp] theorem writeStatus_err (v : Word) (s : State) :
    (writeStatus v s).err = if v.getLsbD 8 then false else s.err := by
  unfold writeStatus; split <;> rfl

theorem writeStatus_eq (v : Word) (s : State) :
    writeStatus v s = { s with err := if v.getLsbD 8 then false else s.err } := by
  unfold writeStatus; split <;> rfl

@[simp] theorem writeStatus_int (v : Word) (s : State) : (writeStatus v s).int = s.int := by
  rw [writeStatus_eq]
@[simp] theorem writeStatus_pk (v : Word) (s : State) : (writeStatus v s).pk = s.pk := by
  rw [writeStatus_eq]
@[simp] theorem writeStatus_w (v : Word) (s : State) : (writeStatus v s).w = s.w := by
  rw [writeStatus_eq]
@[simp] theorem writeStatus_valid (v : Word) (s : State) : (writeStatus v s).valid = s.valid := by
  rw [writeStatus_eq]
@[simp] theorem writeStatus_ecode (v : Word) (s : State) : (writeStatus v s).ecode = s.ecode := by
  rw [writeStatus_eq]
@[simp] theorem writeStatus_fault (v : Word) (s : State) : (writeStatus v s).fault = s.fault := by
  rw [writeStatus_eq]
@[simp] theorem writeStatus_base (v : Word) (s : State) : (writeStatus v s).base = s.base := by
  rw [writeStatus_eq]
@[simp] theorem writeStatus_pending (v : Word) (s : State) : (writeStatus v s).pending = s.pending := by
  rw [writeStatus_eq]
@[simp] theorem writeStatus_resp (v : Word) (s : State) : (writeStatus v s).resp = s.resp := by
  rw [writeStatus_eq]
@[simp] theorem writeStatus_draws (v : Word) (s : State) : (writeStatus v s).draws = s.draws := by
  rw [writeStatus_eq]

end Sys2Proof.Machine
end

