-- ==== Sys2Proof/Laws/Operands.lean ====
section
/-! SUPPORT. The three layouts of a 128-bit value as numbers (00_scope.md R11, 10_state.md R22–R24): what the registers hold,
and how a field of the value is a register. -/

namespace Sys2Proof.Machine

/-- IntValue() as a number (R11). -/
theorem intValue_toNat (s : State) : (intValue s).toNat =
    s.int[3].toNat * 2 ^ 96 + s.int[2].toNat * 2 ^ 64 + s.int[1].toNat * 2 ^ 32 + s.int[0].toNat := by
  simp only [intValue, toNat_concat]
  omega

/-- The integer in PK0..PK3 as a number (R81). -/
theorem packedValue_toNat (s : State) : (packedValue s).toNat =
    s.pk[0].toNat * 2 ^ 96 + s.pk[1].toNat * 2 ^ 64 + s.pk[2].toNat * 2 ^ 32 + s.pk[3].toNat := by
  simp only [packedValue, toNat_concat]
  omega

/-- The integer in W0..W7 as a number (R91). -/
theorem wordsValue_toNat (s : State) : (wordsValue s).toNat =
    (s.w[0].toNat % 2 ^ 16) * 2 ^ 112 + (s.w[1].toNat % 2 ^ 16) * 2 ^ 96 + (s.w[2].toNat % 2 ^ 16) * 2 ^ 80 + (s.w[3].toNat % 2 ^ 16) * 2 ^ 64
    + (s.w[4].toNat % 2 ^ 16) * 2 ^ 48 + (s.w[5].toNat % 2 ^ 16) * 2 ^ 32 + (s.w[6].toNat % 2 ^ 16) * 2 ^ 16 + (s.w[7].toNat % 2 ^ 16) := by
  have e : ∀ k : Fin 8, (laneLow s k).toNat = s.w[k].toNat % 2 ^ 16 := by
    intro k; rw [laneLow, toNat_field]; simp
  simp only [wordsValue, toNat_concat, e]
  simp only [Fin.getElem_fin]
  norm_num
  omega

/-- SetInt then IntValue (R11). -/
theorem intValue_setInt (v : Address) (s : State) : intValue (setInt v s) = v := by
  apply BitVec.eq_of_toNat_eq
  rw [intValue_toNat]
  simp only [setInt_int, intLimbs, Vector.getElem_ofFn, toNat_field]
  have := v.isLt
  omega

/-- Each 32-bit field of IntValue() is an integer register, counted from the most significant group (R22, R80). -/
theorem intValue_group (s : State) (j : Fin 4) : (intValue s).extractLsb' (96 - 32 * j.val) 32 = s.int[3 - j] := by
  apply BitVec.eq_of_toNat_eq
  rw [toNat_field, intValue_toNat]
  have h0 := s.int[0].isLt
  have h1 := s.int[1].isLt
  have h2 := s.int[2].isLt
  have h3 := s.int[3].isLt
  match j with
  | 0 => show _ = s.int[3].toNat; simp only [Fin.val_zero]; omega
  | 1 => show _ = s.int[2].toNat; simp only [Fin.val_one]; omega
  | 2 => show _ = s.int[1].toNat; simp only [Fin.val_two]; omega
  | 3 => show _ = s.int[0].toNat; show _ / 2 ^ (96 - 32 * 3) % _ = _; omega

end Sys2Proof.Machine
end

