-- ==== Sys2Proof/Laws/Ops.lean ====
section
/-! SUPPORT. One lemma per shared operation, saying what it can do: the register map, accepted accesses, how a command
ends, and what one step does with each interaction. Proofs cite these and leave the operations folded. -/

namespace Sys2Proof.Machine

/-! ## The register map and the window (R41–R45) -/

/-- Each register is found at its own offset (R42). -/
@[simp] theorem regAt_regOffset (r : Reg) : regAt (regOffset r) = some r := by
  cases r with
  | cmd => rfl
  | status => rfl
  | config => rfl
  | int i => revert i; decide
  | pk j => revert j; decide
  | w k => revert k; decide

/-- The register at an offset has that offset (R42). -/
theorem regOffset_of_regAt {off : Nat} {r : Reg} (h : regAt off = some r) : off = regOffset r := by
  unfold regAt at h
  split at h <;> first | (cases h; rfl) | cases h

theorem regOffset_lt (r : Reg) : regOffset r < 256 := by
  cases r <;> simp only [regOffset] <;> omega

theorem regOffset_aligned (r : Reg) : regOffset r % 4 = 0 := by
  cases r <;> simp only [regOffset] <;> omega

/-- The offset of an address in the window (R41). -/
@[simp] theorem windowOffset_add (base off : Nat) (h : off < 256) : windowOffset base (base + off) = some off := by
  have : base ≤ base + off ∧ base + off < base + Config.windowSize := by
    simp only [Config.windowSize]; omega
  simp [windowOffset, this]

/-- An address outside the window has no offset (R41). -/
theorem windowOffset_eq_none {base addr : Nat} (h : addr < base ∨ base + 256 ≤ addr) :
    windowOffset base addr = none := by
  have : ¬(base ≤ addr ∧ addr < base + Config.windowSize) := by
    simp only [Config.windowSize]; omega
  simp [windowOffset, this]

/-- What an address with an offset is (R41). -/
theorem of_windowOffset {base addr off : Nat} (h : windowOffset base addr = some off) :
    addr = base + off ∧ off < 256 := by
  unfold windowOffset Config.windowSize at h
  split at h
  · cases h; omega
  · cases h

/-- A word transfer at a register's offset reaches the register (R42, R45). -/
@[simp] theorem acceptedReg_regOffset (r : Reg) : acceptedReg (regOffset r) 4 = some r := by
  simp [acceptedReg, regOffset_aligned]

/-- An accepted transfer has size 4 at the register's offset (R45). -/
theorem of_acceptedReg {off size : Nat} {r : Reg} (h : acceptedReg off size = some r) :
    size = 4 ∧ off = regOffset r := by
  unfold acceptedReg at h
  split at h
  · exact ⟨by omega, regOffset_of_regAt h⟩
  · cases h

/-! ## How a command ends (R13, R63, R116) -/

/-- A command has no effect while FAULT is 1 (R116). -/
theorem runCommand_of_faulted {s : State} (h : s.fault = true) (range : RangeTag) (body : State → State) :
    runCommand range body s = s := by
  simp [runCommand, h]

/-- RANGE 0b11 is ILLEGAL_COMMAND for every OP (R66). -/
theorem runCommand_of_reserved {s : State} (h : s.fault = false) (body : State → State) :
    runCommand .reserved body s = fail .illegalCommand s := by
  simp [runCommand, h]

/-- A legal command in a state that is not faulted has its own effect (R63). -/
theorem runCommand_of_ready {s : State} (h : s.fault = false) {range : RangeTag} (hr : range ≠ .reserved)
    (body : State → State) : runCommand range body s = body s := by
  simp [runCommand, h, hr]

/-- What a command can do: nothing (faulted), fail as illegal, or its own effect. -/
theorem runCommand_cases (range : RangeTag) (body : State → State) (s : State) :
    (s.fault = true ∧ runCommand range body s = s) ∨
    (s.fault = false ∧ range = .reserved ∧ runCommand range body s = fail .illegalCommand s) ∨
    (s.fault = false ∧ range ≠ .reserved ∧ runCommand range body s = body s) := by
  cases hf : s.fault
  · by_cases hr : range = .reserved
    · exact .inr (.inl ⟨rfl, hr, by simp [runCommand, hf, hr]⟩)
    · exact .inr (.inr ⟨rfl, hr, runCommand_of_ready hf hr body⟩)
  · exact .inl ⟨rfl, runCommand_of_faulted hf range body⟩

/-! ## What the bodies can do (R80, R81, R90–R92) -/

theorem integerToPacked_cases (range : RangeTag) (s : State) :
    (range = .inRange ∧ integerToPacked range s = succeed (setPacked (intValue s) s)) ∨
    (range ≠ .inRange ∧ integerToPacked range s = fail .valueError s) := by
  by_cases h : range = .inRange <;> simp [integerToPacked, intOperand, h]

theorem integerToWords_cases (range : RangeTag) (s : State) :
    (range = .inRange ∧ integerToWords range s = succeed (setLanes (intValue s) s)) ∨
    (range ≠ .inRange ∧ integerToWords range s = fail .valueError s) := by
  by_cases h : range = .inRange <;> simp [integerToWords, intOperand, h]

theorem packedToInteger_cases (count : BitVec 5) (s : State) :
    (count = 16 ∧ packedToInteger count s = succeed (setInt (packedValue s) s)) ∨
    (count ≠ 16 ∧ packedToInteger count s = latchFault s) := by
  by_cases h : count = 16
  · exact .inl ⟨h, by simp only [packedToInteger, packedOperand, if_pos h]⟩
  · exact .inr ⟨h, by simp only [packedToInteger, packedOperand, if_neg h]⟩

theorem wordsToInteger_cases (count : BitVec 5) (s : State) :
    (wordsValid count s ∧ wordsToInteger count s = succeed (setInt (wordsValue s) s)) ∨
    (¬wordsValid count s ∧ wordsToInteger count s = fail .rangeError s) := by
  by_cases h : wordsValid count s
  · exact .inl ⟨h, by simp only [wordsToInteger, wordsOperand, if_pos h]⟩
  · exact .inr ⟨h, by simp only [wordsToInteger, wordsOperand, if_neg h]⟩

/-- The high half of a 32-bit value is zero exactly when the value is at most 0xFFFF. -/
theorem high_half_eq_zero_iff (x : Word) : x.extractLsb' 16 16 = 0 ↔ x.toNat ≤ 0xFFFF := by
  rw [← BitVec.toNat_inj]
  have h0 : (0 : BitVec 16).toNat = 0 := rfl
  simp only [BitVec.extractLsb'_toNat, Nat.shiftRight_eq_div_pow, h0]
  have := x.isLt
  omega

/-- A lane is a valid word exactly when it is at most MAX_WORD (R24). -/
theorem laneValid_iff (s : State) (k : Fin 8) : laneValid s k ↔ s.w[k].toNat ≤ 0xFFFF :=
  high_half_eq_zero_iff _

/-- A valid word sequence, as R92 says it. -/
theorem wordsValid_iff (c : BitVec 5) (s : State) :
    wordsValid c s ↔ c = 8 ∧ ∀ k : Fin 8, s.w[k].toNat ≤ 0xFFFF := by
  simp only [wordsValid, laneValid_iff]

/-- Everything a command can do: nothing in a faulted state; ILLEGAL_COMMAND under RANGE 0b11; else one of the outcomes of its own rule
(R80, R81, R90–R92, R100). -/
theorem exec_cases (i : Instr) (s t : State) (h : exec i s = .next t) :
    (s.fault = true ∧ t = s) ∨
    (s.fault = false ∧ i.range = .reserved ∧ t = fail .illegalCommand s) ∨
    (s.fault = false ∧ i.range ≠ .reserved ∧
      ((∃ r c, i = .nop r c ∧ t = succeed s) ∨
      (∃ c, i = .i2p .inRange c ∧ t = succeed (setPacked (intValue s) s)) ∨
      (∃ r c, i = .i2p r c ∧ r ≠ .inRange ∧ t = fail .valueError s) ∨
      (∃ r, i = .p2i r 16 ∧ t = succeed (setInt (packedValue s) s)) ∨
      (∃ r c, i = .p2i r c ∧ c ≠ 16 ∧ t = latchFault s) ∨
      (∃ c, i = .i2w .inRange c ∧ t = succeed (setLanes (intValue s) s)) ∨
      (∃ r c, i = .i2w r c ∧ r ≠ .inRange ∧ t = fail .valueError s) ∨
      (∃ r c, i = .w2i r c ∧ wordsValid c s ∧ t = succeed (setInt (wordsValue s) s)) ∨
      (∃ r c, i = .w2i r c ∧ ¬wordsValid c s ∧ t = fail .rangeError s) ∨
      (∃ r c, i = .vw r c ∧ t = validateWords c s))) := by
  cases i with
  | nop r c =>
    cases h
    rcases runCommand_cases r succeed s with ⟨hf, h⟩ | ⟨hf, hr, h⟩ | ⟨hf, hr, h⟩ <;> rw [h] <;> simp_all [Instr.range]
  | i2p r c =>
    cases h
    rcases runCommand_cases r (integerToPacked r) s with ⟨hf, h⟩ | ⟨hf, hr, h⟩ | ⟨hf, hr, h⟩ <;> rw [h] <;>
      rcases integerToPacked_cases r s with ⟨h', h⟩ | ⟨h', h⟩ <;> rw [h] at * <;> simp_all [Instr.range]
  | p2i r c =>
    cases h
    rcases runCommand_cases r (packedToInteger c) s with ⟨hf, h⟩ | ⟨hf, hr, h⟩ | ⟨hf, hr, h⟩ <;>
      rw [h] <;> rcases packedToInteger_cases c s with ⟨h', h⟩ | ⟨h', h⟩ <;> rw [h] at * <;> simp_all [Instr.range]
  | i2w r c =>
    cases h
    rcases runCommand_cases r (integerToWords r) s with ⟨hf, h⟩ | ⟨hf, hr, h⟩ | ⟨hf, hr, h⟩ <;>
      rw [h] <;> rcases integerToWords_cases r s with ⟨h', h⟩ | ⟨h', h⟩ <;> rw [h] at * <;> simp_all [Instr.range]
  | w2i r c =>
    cases h
    rcases runCommand_cases r (wordsToInteger c) s with ⟨hf, h⟩ | ⟨hf, hr, h⟩ | ⟨hf, hr, h⟩
    · rw [h]; exact .inl ⟨hf, rfl⟩
    · rw [h]; exact .inr (.inl ⟨hf, hr, rfl⟩)
    · rw [h]; refine .inr (.inr ⟨hf, hr, ?_⟩)
      rcases wordsToInteger_cases c s with ⟨h', h⟩ | ⟨h', h⟩ <;> rw [h]
      · exact .inr (.inr (.inr (.inr (.inr (.inr (.inr (.inl ⟨r, c, rfl, h', rfl⟩)))))))
      · exact .inr (.inr (.inr (.inr (.inr (.inr (.inr (.inr (.inl ⟨r, c, rfl, h', rfl⟩))))))))
  | vw r c =>
    cases h
    rcases runCommand_cases r (validateWords c) s with ⟨hf, h⟩ | ⟨hf, hr, h⟩ | ⟨hf, hr, h⟩ <;> rw [h]
    · exact .inl ⟨hf, rfl⟩
    · exact .inr (.inl ⟨hf, hr, rfl⟩)
    · exact .inr (.inr ⟨hf, hr, by simp⟩)

/-! ## A CMD write, an access, a step -/

/-- What a CMD write does (R63). -/
theorem writeCmd_cases (c : Word) (s : State) :
    (s.fault = true ∧ writeCmd c s = .next s) ∨
    (s.fault = false ∧ (∃ e, decodeWord c = .error e) ∧ writeCmd c s = .next (fail .illegalCommand s)) ∨
    (s.fault = false ∧ ∃ i, decodeWord c = .ok i ∧ writeCmd c s = exec i s) := by
  cases hf : s.fault
  · cases hd : decodeWord c with
    | error e => exact .inr (.inl ⟨rfl, ⟨e, rfl⟩, by simp [writeCmd, hf, hd]⟩)
    | ok i => exact .inr (.inr ⟨rfl, i, rfl, by simp [writeCmd, hf, hd]⟩)
  · exact .inl ⟨rfl, by simp [writeCmd, hf]⟩

/-- A word transfer at a register's offset is that access of the register (R46, R47). -/
theorem performTransfer_reg (r : Reg) (a : Access) (s : State) :
    performTransfer { addr := s.base + regOffset r, size := 4, access := a } s = accessReg r a s := by
  simp only [performTransfer, windowOffset_add _ _ (regOffset_lt r), acceptedReg_regOffset]

/-- What a transfer can be: outside the window, rejected, or an access of a register (R41–R47). -/
theorem performTransfer_cases (t : Transfer) (s : State) :
    (windowOffset s.base t.addr = none ∧ performTransfer t s = .next (respond .elsewhere s)) ∨
    (∃ off, windowOffset s.base t.addr = some off ∧ acceptedReg off t.size = none ∧
      performTransfer t s = .next (respond .busError s)) ∨
    (∃ r, t = { addr := s.base + regOffset r, size := 4, access := t.access } ∧
      performTransfer t s = accessReg r t.access s) := by
  obtain ⟨addr, size, a⟩ := t
  cases hw : windowOffset s.base addr with
  | none => exact .inl ⟨rfl, by simp [performTransfer, hw]⟩
  | some off =>
    cases ha : acceptedReg off size with
    | none => exact .inr (.inl ⟨off, rfl, ha, by simp [performTransfer, hw, ha]⟩)
    | some r =>
      obtain ⟨rfl, rfl⟩ := of_acceptedReg ha
      obtain ⟨rfl, -⟩ := of_windowOffset hw
      exact .inr (.inr ⟨r, rfl, by simp [performTransfer, hw, ha]⟩)

/-- With nothing to deliver the block waits (R132). -/
theorem step_of_idle {s : State} (h : s.pending = []) : step s = .next s := by
  simp only [step, deliverNext, h]

/-- A step delivers the oldest interaction (R52). -/
theorem step_of_pending {s : State} {e : HostEvent} {rest : List HostEvent} (h : s.pending = e :: rest) :
    step s = deliver e { s with pending := rest } := by
  simp only [step, deliverNext, h]

/-- The transfer of `WR CMD, c` is the CMD write of c (R60, R72). -/
theorem performTransfer_command (s : State) (c : Word) :
    performTransfer (commandTransfer s.base c) s = answer .done (writeCmd c s) :=
  performTransfer_reg .cmd (.write c) s

/-- A step whose next interaction writes c to CMD is that CMD write (R50, R63). -/
theorem step_of_command {s : State} {c : Word} {rest : List HostEvent}
    (h : s.pending = .transfer (commandTransfer s.base c) :: rest) :
    step s = answer .done (writeCmd c { s with pending := rest }) := by
  rw [step_of_pending h]
  exact performTransfer_command { s with pending := rest } c

/-- A step whose next interaction is a word access at a register's offset is that access (R46, R47). -/
theorem step_of_access {s : State} {r : Reg} {a : Access} {rest : List HostEvent}
    (h : s.pending = .transfer { addr := s.base + regOffset r, size := 4, access := a } :: rest) :
    step s = accessReg r a { s with pending := rest } := by
  rw [step_of_pending h]
  exact performTransfer_reg r a { s with pending := rest }

/-- Every command answers a next state (R113, R138). -/
theorem exec_answers_next (i : Instr) (s : State) : ∃ t, exec i s = .next t := by
  cases i <;> exact ⟨_, rfl⟩

/-- Everything a step can do, one case for each kind of interaction: nothing to deliver; reset; reset during a transfer; a
transfer that changes no register (a read, a write of CONFIG, a rejected one, one outside the window); a CMD write that is
ignored, illegal, or a command; a STATUS write; a write of INT, PK or W. -/
theorem step_cases {s t : State} (h : step s = .next t) :
    (s.pending = [] ∧ t = s) ∨
    (∃ rest, s.pending = .reset :: rest ∧ t = resetRegisters { s with pending := rest }) ∨
    (∃ a rest, s.pending = .resetDuring a :: rest ∧ t = abandonTransfer { s with pending := rest }) ∨
    (∃ a rest, s.pending = .transfer a :: rest ∧ ∃ x, t = { s with pending := rest, resp := x }) ∨
    (∃ c rest, s.pending = .transfer (commandTransfer s.base c) :: rest ∧ s.fault = true ∧
      t = { s with pending := rest, resp := .done }) ∨
    (∃ c rest, s.pending = .transfer (commandTransfer s.base c) :: rest ∧ s.fault = false ∧
      (∃ e, decodeWord c = .error e) ∧ t = respond .done (fail .illegalCommand { s with pending := rest })) ∨
    (∃ c rest i u, s.pending = .transfer (commandTransfer s.base c) :: rest ∧ s.fault = false ∧
      decodeWord c = .ok i ∧ exec i { s with pending := rest } = .next u ∧ t = respond .done u) ∨
    (∃ v rest, s.pending = .transfer { addr := s.base + 0x04, size := 4, access := .write v } :: rest ∧
      t = respond .done (writeStatus v { s with pending := rest })) ∨
    (∃ i v rest, s.pending = .transfer { addr := s.base + regOffset (.int i), size := 4, access := .write v } :: rest ∧
      t = respond .done (writeInt i v { s with pending := rest })) ∨
    (∃ j v rest, s.pending = .transfer { addr := s.base + regOffset (.pk j), size := 4, access := .write v } :: rest ∧
      t = respond .done (writePk j v { s with pending := rest })) ∨
    (∃ k v rest, s.pending = .transfer { addr := s.base + regOffset (.w k), size := 4, access := .write v } :: rest ∧
      t = respond .done (writeW k v { s with pending := rest })) := by
  cases hp : s.pending with
  | nil => rw [step_of_idle hp] at h; cases h; exact .inl ⟨rfl, rfl⟩
  | cons e rest =>
    rw [step_of_pending hp] at h
    right
    cases e with
    | reset => cases h; exact .inl ⟨rest, rfl, rfl⟩
    | resetDuring a => cases h; exact .inr (.inl ⟨a, rest, rfl, rfl⟩)
    | transfer a =>
      right; right
      change performTransfer a _ = _ at h
      rcases performTransfer_cases a { s with pending := rest } with ⟨-, h'⟩ | ⟨_, -, -, h'⟩ | ⟨r, ha, h'⟩
      · rw [h'] at h; cases h; exact .inl ⟨a, rest, rfl, _, rfl⟩
      · rw [h'] at h; cases h; exact .inl ⟨a, rest, rfl, _, rfl⟩
      rw [h'] at h
      cases hacc : a.access with
      | read => rw [hacc] at h; cases h; exact .inl ⟨a, rest, rfl, _, rfl⟩
      | write v =>
        rw [hacc] at h ha
        simp only at ha
        cases r with
        | cmd =>
          right
          have hc : a = commandTransfer s.base v := ha
          subst hc
          simp only [accessReg, writeReg] at h
          rcases writeCmd_cases v { s with pending := rest } with ⟨hf, h2⟩ | ⟨hf, he, h2⟩ | ⟨hf, j, hj, h2⟩
          · rw [h2] at h; cases h; exact .inl ⟨v, rest, rfl, hf, rfl⟩
          · rw [h2] at h; cases h; exact .inr (.inl ⟨v, rest, rfl, hf, he, rfl⟩)
          · obtain ⟨u, hu⟩ := exec_answers_next j { s with pending := rest }
            rw [h2, hu] at h; cases h
            exact .inr (.inr (.inl ⟨v, rest, j, u, rfl, hf, hj, hu, rfl⟩))
        | status => cases h; subst ha; exact .inr (.inr (.inr (.inr (.inl ⟨v, rest, rfl, rfl⟩))))
        | config => cases h; exact .inl ⟨a, rest, rfl, _, rfl⟩
        | int i => cases h; subst ha; exact .inr (.inr (.inr (.inr (.inr (.inl ⟨i, v, rest, rfl, rfl⟩)))))
        | pk i => cases h; subst ha; exact .inr (.inr (.inr (.inr (.inr (.inr (.inl ⟨i, v, rest, rfl, rfl⟩))))))
        | w i => cases h; subst ha; exact .inr (.inr (.inr (.inr (.inr (.inr (.inr ⟨i, v, rest, rfl, rfl⟩))))))

/-- One step of a run. -/
theorem runSteps_succ {s t : State} (h : step s = .next t) (k : Nat) : runSteps (k + 1) s = runSteps k t := by
  simp only [runSteps, h]

end Sys2Proof.Machine
end

