-- ==== Sys2Proof/Laws/PerInstr.lean ====
section
/-! SUPPORT. The per-instruction family `TableMatch`: the word of a command matches its row of spec/opcode_table.json, mask
0xFFFFE0CF (30_encoding.md R61, R62). -/

namespace Sys2Proof.Laws.TableMatch

/-- Under the table's mask the command's word is its opcode, with every reserved bit zero, whatever RANGE and COUNT are. -/
def Statement (i : Instr) : Prop := encode i &&& 0xFFFFE0CF#32 = (opcode i).setWidth 32

/-- The word's bits outside RANGE and COUNT, for each tag. -/
theorem masked (c : BitVec 5) (r : BitVec 2) (o : BitVec 4) :
    (0#19 ++ c ++ 0#2 ++ r ++ o : Word) &&& 0xFFFFE0CF#32 = o.setWidth 32 := by
  revert c r o; decide

theorem nop (range : RangeTag) (count : BitVec 5) : Statement (.nop range count) := masked count _ _
theorem i2p (range : RangeTag) (count : BitVec 5) : Statement (.i2p range count) := masked count _ _
theorem p2i (range : RangeTag) (count : BitVec 5) : Statement (.p2i range count) := masked count _ _
theorem i2w (range : RangeTag) (count : BitVec 5) : Statement (.i2w range count) := masked count _ _
theorem w2i (range : RangeTag) (count : BitVec 5) : Statement (.w2i range count) := masked count _ _
theorem vw (range : RangeTag) (count : BitVec 5) : Statement (.vw range count) := masked count _ _

end Sys2Proof.Laws.TableMatch
end

