-- ==== Sys2Proof/Tests/Slice0.lean ====
section
/-! SUPPORT. The model's own tests. Expected results are those of spec/95_test_vectors.md (each test names its vector) and the
words and examples of the rules. The last part gives, for every obligation with hypotheses, a concrete case that meets
them. -/

namespace Sys2Proof.Tests

open Sys2Proof.Machine

/-- The state an outcome leaves, if it leaves one. -/
def after (o : Host.Outcome State Fault Refusal) : Option State :=
  match o with
  | .next s => some s
  | .fault _ => none
  | .refused _ => none

/-- STATUS after an outcome. -/
def statusAfter (o : Host.Outcome State Fault Refusal) : Option Word := (after o).map statusWord

/-- The reset state with this integer. -/
def withInteger (v : Address) : State := setInt v State.reset

/-- The reset state with these packed registers. -/
def withPacked (p : Vector Word 4) : State := { State.reset with pk := p }

/-- The reset state with these lanes. -/
def withLanes (w : Vector Word 8) : State := { State.reset with w := w }

/-- The reset state with one transfer to deliver, at offset `off` of the window. -/
def offering (off size : Nat) (a : Access) : State :=
  { State.reset with pending := [.transfer { addr := off, size := size, access := a }] }

/-- The state a P2I of the wrong length leaves from reset (FLT-1). -/
def faulted : State := { State.reset with ecode := 4, err := true, fault := true }

/-! ## Well-formedness -/

/-- R66: RANGE 0b11 is illegal for every OP. -/
theorem test_reserved_range_is_ill_formed :
    ¬(Instr.nop .reserved 0).WellFormed ∧ ¬(Instr.i2p .reserved 0).WellFormed ∧ ¬(Instr.p2i .reserved 16).WellFormed ∧
    ¬(Instr.i2w .reserved 0).WellFormed ∧ ¬(Instr.w2i .reserved 8).WellFormed ∧ ¬(Instr.vw .reserved 8).WellFormed := by
  decide

/-- R67: every COUNT is legal; R66: the other three tags are. -/
theorem test_other_ranges_are_well_formed :
    ∀ c : BitVec 5, (Instr.p2i .inRange c).WellFormed ∧ (Instr.i2p .above c).WellFormed ∧ (Instr.nop .below c).WellFormed := by
  decide

/-- R5, R6: the parameters' values, and how they agree. -/
theorem test_parameters :
    Config.numWords * Config.wordSize = Config.width ∧ Config.groups * Config.groupSize = Config.width ∧
    Config.packedBytes = 16 ∧ Config.maxWord = 65535 ∧
    Config.maxInt = 0xFFFFFFFFFFFFFFFFFFFFFFFFFFFFFFFF ∧ Config.busWidth = 32 ∧ Config.countBits = 5 := by
  decide

/-! ## Decoding: words written out from the pattern 19 zeros, ccccc, 00, rr, oooo (R61) -/

theorem test_decode_nop : decodeWord 0b00000000000000000001111100000000#32 = .ok (.nop .inRange 31) := by decide
theorem test_decode_nop_below : decodeWord 0b00000000000000000000000000100000#32 = .ok (.nop .below 0) := by decide
theorem test_decode_i2p : decodeWord 0b00000000000000000000000000000001#32 = .ok (.i2p .inRange 0) := by decide
theorem test_decode_i2p_above : decodeWord 0b00000000000000000000000000010001#32 = .ok (.i2p .above 0) := by decide
theorem test_decode_p2i : decodeWord 0b00000000000000000001000000000010#32 = .ok (.p2i .inRange 16) := by decide
theorem test_decode_p2i_count31 : decodeWord 0b00000000000000000001111100000010#32 = .ok (.p2i .inRange 31) := by decide
theorem test_decode_i2w : decodeWord 0b00000000000000000000000000000011#32 = .ok (.i2w .inRange 0) := by decide
theorem test_decode_w2i : decodeWord 0b00000000000000000000100000000100#32 = .ok (.w2i .inRange 8) := by decide
theorem test_decode_vw : decodeWord 0b00000000000000000000100000000101#32 = .ok (.vw .inRange 8) := by decide

/-- DEC-5 to DEC-11, DEC-19: the illegal words, each by R63's first failing check. -/
theorem test_decode_rejects :
    decodeWord 0x00000031#32 = .error .reservedRange ∧ decodeWord 0x00000006#32 = .error .reservedOpcode ∧
    decodeWord 0x0000000F#32 = .error .reservedOpcode ∧ decodeWord 0x00000041#32 = .error .reservedBits ∧
    decodeWord 0x00000081#32 = .error .reservedBits ∧ decodeWord 0x00002001#32 = .error .reservedBits ∧
    decodeWord 0x80000000#32 = .error .reservedBits ∧ decodeWord 0x00000036#32 = .error .reservedRange := by
  decide

/-- The words the rules give: R100, R80, R81, R90, R91, R92. -/
theorem test_encode_words :
    encode (.nop .inRange 0) = 0x00000000 ∧ encode (.i2p .inRange 0) = 0x00000001 ∧
    encode (.p2i .inRange 16) = 0x00001002 ∧ encode (.i2w .inRange 0) = 0x00000003 ∧
    encode (.w2i .inRange 8) = 0x00000804 ∧ encode (.vw .inRange 8) = 0x00000805 := by
  decide

/-- A table row's word, and a number too long for a command. -/
theorem test_decode_table_word :
    decodeTableWord 32 0x1002 = some (.p2i .inRange 16) ∧ decodeTableWord 40 0x100000000 = none := by
  decide

/-! ## The commands -/

/-- CTL-1. -/
theorem test_nop_keeps_err :
    statusAfter (exec (.nop .inRange 0) { State.reset with ecode := 2, err := true }) = some 0x00000100 := by
  decide

/-- I2P-4. -/
theorem test_i2p :
    (after (exec (.i2p .inRange 0) (withInteger 0x0123456789abcdeffedcba9876543210))).map (·.pk) =
      some #v[0x01234567, 0x89ABCDEF, 0xFEDCBA98, 0x76543210] := by
  decide

/-- I2P-8: no partial result. -/
theorem test_i2p_above :
    let s := { withInteger 0x0123456789abcdeffedcba9876543210 with pk := Vector.replicate 4 0xAAAAAAAA }
    (after (exec (.i2p .above 0) s)).map (fun t => (t.pk, statusWord t)) =
      some (Vector.replicate 4 0xAAAAAAAA, 0x00000110) := by
  decide

/-- P2I-6. -/
theorem test_p2i :
    (after (exec (.p2i .inRange 16) (withPacked #v[0x80000000, 0, 0, 0xFF000000]))).map intValue =
      some 0x800000000000000000000000ff000000 := by
  decide

/-- P2I-7. -/
theorem test_p2i_wrong_length :
    (after (exec (.p2i .inRange 15) { withInteger 0x55 with pk := #v[0, 0, 0, 1] })).map
      (fun t => (intValue t, statusWord t)) = some (0x55, 0x00000340) := by
  decide

/-- I2W-7. -/
theorem test_i2w :
    (after (exec (.i2w .inRange 0) (withInteger 0x20010db8000000000000000000000001))).map (·.w) =
      some #v[0x2001, 0x0DB8, 0, 0, 0, 0, 0, 1] := by
  decide

/-- I2W-9. -/
theorem test_i2w_below :
    (after (exec (.i2w .below 0) (withLanes (Vector.replicate 8 0xAAAA)))).map (fun t => (t.w, statusWord t)) =
      some (Vector.replicate 8 0xAAAA, 0x00000110) := by
  decide

/-- W2I-4. -/
theorem test_w2i :
    (after (exec (.w2i .inRange 8)
      (withLanes #v[0x123, 0x4567, 0x89AB, 0xCDEF, 0xFEDC, 0xBA98, 0x7654, 0x3210]))).map intValue =
      some 0x0123456789abcdeffedcba9876543210 := by
  decide

/-- W2I-8: lane 7 = 0x1FFFF is not truncated. -/
theorem test_w2i_does_not_truncate :
    (after (exec (.w2i .inRange 8) { withInteger 0x55 with w := #v[0, 0, 0, 0, 0, 0, 0, 0x1FFFF] })).map
      (fun t => (intValue t, statusWord t)) = some (0x55, 0x00000120) := by
  decide

/-- VW-2. -/
theorem test_vw_accepts_max :
    statusAfter (exec (.vw .inRange 8) (withLanes (Vector.replicate 8 0xFFFF))) = some 0x00000001 := by
  decide

/-- VW-3: the word 65536 of the source's §8. -/
theorem test_vw_rejects_65536 :
    statusAfter (exec (.vw .inRange 8) { withLanes #v[0, 0x10000, 0, 0, 0, 0, 0, 0] with valid := true }) =
      some 0x00000000 := by
  decide

/-! ## The bus, the fault latch, reset -/

/-- DEC-8, through a bus write. -/
theorem test_step_illegal_word : statusAfter (step (offering 0 4 (.write 0x41))) = some 0x00000130 := by decide

/-- FLT-2, FLT-3: commands and illegal words are ignored while FAULT = 1. -/
theorem test_faulted_ignores :
    statusAfter (writeCmd 0x1 faulted) = some 0x00000340 ∧ statusAfter (writeCmd 0x6 faulted) = some 0x00000340 := by
  decide

/-- CTL-4, CTL-5. -/
theorem test_status_write :
    statusWord (writeStatus 0xFFFFFFFF { State.reset with valid := true, ecode := 2, err := true }) = 0x00000021 ∧
    statusWord (writeStatus 0x00000100 faulted) = 0x00000240 := by
  decide

/-- BUS-2. -/
theorem test_read_config : (after (step (offering 8 4 .read))).map (·.resp) = some (.data 0x00081080) := by decide

/-- BUS-4 to BUS-9: bus errors. -/
theorem test_bus_errors :
    (after (step (offering 0x0C 4 .read))).map (·.resp) = some .busError ∧
    (after (step (offering 0x50 4 .read))).map (·.resp) = some .busError ∧
    (after (step (offering 0xFC 4 (.write 1)))).map (·.resp) = some .busError ∧
    (after (step (offering 0x10 1 .read))).map (·.resp) = some .busError ∧
    (after (step (offering 0x12 4 .read))).map (·.resp) = some .busError ∧
    (after (step (offering 0x00 2 (.write 1)))).map (·.resp) = some .busError := by
  decide

/-- BUS-10. -/
theorem test_lane_keeps_all_bits :
    (after (step (offering 0x3C 4 (.write 0xDEADBEEF)))).map (readReg (.w 3)) = some 0xDEADBEEF := by
  decide

/-- RST-1, FLT-5. -/
theorem test_reset_clears_fault :
    (after (step { faulted with pk := Vector.replicate 4 7, pending := [.reset] })) = some State.reset := by
  decide

/-- The first instruction after reset. -/
theorem test_fetch_word_runs :
    statusAfter (step (State.reset.withFetchWord 32 0x805)) = some 0x00000001 := by
  decide

/-! ## The host notation -/

/-- R72's defaults and refusals; an ignored field is written as 0. -/
theorem test_assemble_commands :
    (assembleCommand .p2i none none).map encode = some 0x00001002 ∧
    (assembleCommand .vw none none).map encode = some 0x00000805 ∧
    (assembleCommand .i2p (some 1) (some 9)).map encode = some 0x00000011 ∧
    assembleCommand .nop (some 3) none = none ∧ assembleCommand .vw none (some 32) = none := by
  decide

/-- R73: CLRERR, and the first transfer of LDI (Program 1, line 1). -/
theorem test_assemble_pseudo :
    assemble 0 .clrerr = some [{ addr := 4, size := 4, access := .write 0x100 }] ∧
    (assemble 0 (.ldi 0x0123456789abcdeffedcba9876543210)).map (·.head?) =
      some (some { addr := 0x10, size := 4, access := .write 0x76543210 }) := by
  decide

/-- R73: LDP (the bytes of I2P-7) and LDW (W2I-6) write the most significant register first, and RDW reads eight lanes. -/
theorem test_assemble_packed_and_words :
    assemble 0 (.ldp #v[0x20, 0x01, 0x0d, 0xb8, 0, 0, 0, 0, 0, 0, 0, 0, 0, 0, 0, 1]) =
      some [regWrite 0 0x20 0x20010DB8, regWrite 0 0x24 0, regWrite 0 0x28 0, regWrite 0 0x2C 1] ∧
    (assemble 0 (.ldw #v[0, 65536, 0, 0, 0, 0, 0, -1])).map (·.drop 1) =
      some [regWrite 0 0x34 0x10000, regWrite 0 0x38 0, regWrite 0 0x3C 0, regWrite 0 0x40 0, regWrite 0 0x44 0,
        regWrite 0 0x48 0, regWrite 0 0x4C 0xFFFFFFFF] ∧
    (assemble 0 .rdw).map (·.length) = some 8 := by
  decide

/-- The document's functions on the source's examples (S3, S4, S5) and on `::1` (I2W-3). -/
theorem test_document_functions :
    docIntegerToPacked 0x0123456789abcdeffedcba9876543210 =
      .ok [0x01, 0x23, 0x45, 0x67, 0x89, 0xab, 0xcd, 0xef, 0xfe, 0xdc, 0xba, 0x98, 0x76, 0x54, 0x32, 0x10] ∧
    docPackedToInteger (List.replicate 15 0 ++ [1]) = .ok 1 ∧
    docPackedToInteger (List.replicate 15 0) = .error .contractViolation ∧
    docIntegerToWords 1 = .ok [0, 0, 0, 0, 0, 0, 0, 1] ∧ docIntegerToWords (2 ^ 128) = .error .valueError ∧
    docWordsToInteger [0, 65536, 0, 0, 0, 0, 0, 0] = .error .rangeError ∧
    docWordsToInteger [0x2001, 0xDB8, 0, 0, 0, 0, 0, 1] = .ok 0x20010db8000000000000000000000001 ∧
    ¬docValidateWords (List.replicate 7 0) ∧ ¬docValidateWords (List.replicate 9 0) := by
  decide

/-- R44, R66, R67: how software values are presented. -/
theorem test_presentation :
    rangeTagOf (-1) = .below ∧ rangeTagOf (2 ^ 128) = .above ∧ rangeTagOf (2 ^ 128 - 1) = .inRange ∧
    presentedCount 8 = 8 ∧ presentedCount 31 = 31 ∧ presentedCount 40 = 31 ∧
    presentedWord 65536 = 0x10000 ∧ presentedWord (-1) = 0xFFFFFFFF := by
  decide

/-! ## The hypotheses of the obligations can be met -/

theorem test_witness_DecodeOfEncodeIsTheCommand : (Instr.w2i .below 31).WellFormed := by decide

theorem test_witness_EncodeOfDecodeIsTheWord : decodeWord 0x00001F25 = .ok (.vw .below 31) := by decide

theorem test_witness_StepRunsTheDecodedCommand :
    (State.reset.withFetchWord 32 0x1002).pending =
      .transfer (commandTransfer (State.reset.withFetchWord 32 0x1002).base 0x1002) :: [] ∧
    decodeWord 0x1002 = .ok (.p2i .inRange 16) := by decide

theorem test_witness_PlacedTableWordIsRunNext : decodeTableWord 32 0x1F05 = some (.vw .inRange 31) := by decide

/-- One word for each of the four ways to be illegal, at the boundary of each. -/
theorem test_witness_IllegalWordFailsTheCmdWrite :
    State.reset.fault = false ∧
    (State.reset.withFetchWord 32 0x2000).pending = [.transfer (commandTransfer 0 0x2000)] ∧
    IllegalWord 0x2000 ∧ IllegalWord 0x80000000 ∧ IllegalWord 0x40 ∧ IllegalWord 0x80 ∧ IllegalWord 0x30 ∧
    IllegalWord 0x6 ∧ IllegalWord 0xF ∧ ¬IllegalWord 0x1F25 := by decide

theorem test_witness_StepDeliversTheOldestInteraction :
    step State.reset = .next State.reset ∧ State.reset.pending = [] ∧
    step { State.reset with pending := [.reset, .reset] } = .next { State.reset with pending := [.reset] } :=
  ⟨rfl, rfl, rfl⟩

theorem test_witness_NopClearsEcodeOnly :
    State.reset.fault = false ∧ RangeTag.below ≠ .reserved ∧ faulted.fault = true := by decide

theorem test_witness_IntegerToPackedResult : (withInteger 5).fault = false := by decide

theorem test_witness_PackedToIntegerResult :
    (withPacked #v[1, 2, 3, 4]).fault = false ∧ RangeTag.above ≠ .reserved ∧ (15#5) ≠ 16 ∧ (17#5) ≠ 16 := by decide

theorem test_witness_IntegerToWordsResult : (withInteger 5).fault = false := by decide

/-- A valid sequence at the boundary 0xFFFF, and an invalid one just past it. -/
theorem test_witness_WordsToIntegerResult :
    (withLanes (Vector.replicate 8 0xFFFF)).fault = false ∧ RangeTag.inRange ≠ .reserved ∧
    (∀ k : Fin 8, (withLanes (Vector.replicate 8 0xFFFF)).w[k].toNat ≤ 0xFFFF) ∧
    (∃ k : Fin 8, 0xFFFF < (withLanes #v[0, 0, 0, 0, 0, 0, 0, 0x10000]).w[k].toNat) ∧ (7#5) ≠ 8 ∧ (9#5) ≠ 8 := by decide

theorem test_witness_ValidateWordsResult : State.reset.fault = false ∧ RangeTag.below ≠ .reserved := by decide

theorem test_witness_PackedRoundTrip :
    (withInteger 5).fault = false ∧ RangeTag.inRange ≠ .reserved ∧
    (∃ t, exec (.i2p .inRange 0) (withInteger 5) = .next t ∧ t.fault = false ∧ t.pk = t.pk) ∧
    ∃ t, exec (.p2i .inRange 16) (withInteger 5) = .next t ∧ t.fault = false ∧ t.int = t.int :=
  ⟨rfl, by decide, ⟨_, rfl, by decide, rfl⟩, ⟨_, rfl, by decide, rfl⟩⟩

theorem test_witness_WordRoundTrip :
    (withLanes #v[1, 2, 3, 4, 5, 6, 7, 0xFFFF]).fault = false ∧ RangeTag.inRange ≠ .reserved ∧
    (∀ k : Fin 8, (withLanes #v[1, 2, 3, 4, 5, 6, 7, 0xFFFF]).w[k].toNat ≤ 0xFFFF) ∧
    (∃ t, exec (.i2w .inRange 0) (withInteger 5) = .next t ∧ t.fault = false ∧ t.w = t.w) ∧
    ∃ t, exec (.w2i .inRange 8) (withLanes #v[1, 2, 3, 4, 5, 6, 7, 0xFFFF]) = .next t ∧ t.fault = false ∧ t.int = t.int :=
  ⟨rfl, by decide, by decide, ⟨_, rfl, by decide, rfl⟩, ⟨_, rfl, by decide, rfl⟩⟩

theorem test_witness_ValidateAgreesWithWordsToInteger :
    State.reset.fault = false ∧ RangeTag.inRange ≠ .reserved ∧ RangeTag.below ≠ .reserved := by decide

theorem test_witness_WordsAreHalvesOfGroups : (withInteger 5).fault = false := by decide

/-- Two integers that differ, but not in word 7. -/
theorem test_witness_IntegerToWordsIsLanewise :
    (withInteger 5).fault = false ∧ (withInteger 0x70005).fault = false ∧
    (intValue (withInteger 5)).extractLsb' (112 - 16 * (7 : Fin 8).val) 16 =
      (intValue (withInteger 0x70005)).extractLsb' (112 - 16 * (7 : Fin 8).val) 16 := by decide

theorem test_witness_FailingCommandChangesOnlyStatus :
    State.reset.fault = false ∧ exec (.p2i .inRange 15) State.reset = .next faulted ∧ faulted.ecode ≠ 0 :=
  ⟨rfl, rfl, by decide⟩

/-- A faulted and a fault-free block, with a CMD write whose word is legal in every check but the command's own. -/
theorem test_witness_CmdWriteOutcomeAndPriority :
    (State.reset.withFetchWord 32 2).pending = [.transfer (commandTransfer State.reset.base 2)] ∧
    State.reset.fault = false ∧ step (State.reset.withFetchWord 32 2) = .next { faulted with resp := .done } ∧
    faulted.fault = true := ⟨by decide, rfl, rfl, rfl⟩

/-- Each kind of change does happen. -/
theorem test_witness_CommandFrame :
    (after (exec (.p2i .inRange 16) (withPacked #v[1, 2, 3, 4]))).map (·.int) ≠ some State.reset.int ∧
    (after (exec (.i2p .inRange 0) (withInteger 5))).map (·.pk) ≠ some (withInteger 5).pk ∧
    (after (exec (.i2w .inRange 0) (withInteger 5))).map (·.w) ≠ some (withInteger 5).w ∧
    (after (exec (.vw .inRange 8) State.reset)).map (·.valid) ≠ some State.reset.valid ∧
    (after (exec (.p2i .inRange 15) State.reset)).map (·.fault) ≠ some State.reset.fault ∧
    (after (exec (.i2p .above 0) State.reset)).map (·.err) ≠ some State.reset.err := by decide

theorem test_witness_CommandsDependOnRegistersOnly :
    SameRegisters State.reset { State.reset with base := 256, pending := [.reset], resp := .done, draws := 3 } := by decide

theorem test_witness_OutOfRangeTagIgnoresTheInteger : RangeTag.below = .above ∨ RangeTag.below = .below := by decide

/-- A VW write to CMD from reset. -/
theorem test_witness_OnlyValidateWritesValid :
    step (State.reset.withFetchWord 32 0x805) = .next { State.reset with valid := true, resp := .done } ∧
    ¬ResetsNext (State.reset.withFetchWord 32 0x805) ∧ true ≠ (State.reset.withFetchWord 32 0x805).valid ∧
    WritesCmd (State.reset.withFetchWord 32 0x805) 0x805 ∧ State.reset.fault = false ∧
    decodeWord 0x805 = .ok (.vw .inRange 8) :=
  ⟨rfl, (by rintro (h | ⟨t, h⟩) <;> cases h), by decide, ⟨[], rfl⟩, rfl, by decide⟩

/-- The outcome a word reports, by R110 and R112: DEC-3, DEC-5, DEC-13, DEC-18, DEC-19, W2I-6 and P2I-1. -/
theorem test_reported_code :
    reportedCode 0x11 State.reset = .valueError ∧ reportedCode 0x31 State.reset = .illegalCommand ∧
    reportedCode 0x804 State.reset = .ok ∧ reportedCode 0x1F02 State.reset = .contractViolation ∧
    reportedCode 0x36 State.reset = .illegalCommand ∧ reportedCode 0x1002 State.reset = .ok ∧
    reportedCode 0x804 (withLanes #v[0, 0x10000, 0, 0, 0, 0, 0, 0]) = .rangeError := by decide

/-- ECODE changes (an illegal word); a CMD write in a state that is not faulted, one that fails and one that succeeds; a faulted
state. -/
theorem test_witness_EcodeIsTheLastCommandsOutcome :
    step (State.reset.withFetchWord 32 6) = .next { State.reset with ecode := 3, err := true, resp := .done } ∧
    ¬ResetsNext (State.reset.withFetchWord 32 6) ∧ WritesCmd (State.reset.withFetchWord 32 6) 6 ∧
    (3#4) ≠ State.reset.ecode ∧
    step (State.reset.withFetchWord 32 0) = .next { State.reset with resp := .done } ∧
    ¬ResetsNext (State.reset.withFetchWord 32 0) ∧ WritesCmd (State.reset.withFetchWord 32 0) 0 ∧
    step (faulted.withFetchWord 32 1) = .next { faulted with resp := .done } ∧ faulted.fault = true :=
  ⟨rfl, (by rintro (h | ⟨t, h⟩) <;> cases h), ⟨[], rfl⟩, by decide, rfl, (by rintro (h | ⟨t, h⟩) <;> cases h), ⟨[], rfl⟩,
    rfl, rfl⟩

/-- ERR falls (CTL-2) and rises. -/
theorem test_witness_ErrIsSticky :
    step { offering 4 4 (.write 0x100) with err := true } = .next { State.reset with resp := .done } ∧
    ¬ResetsNext { offering 4 4 (.write 0x100) with err := true } ∧
    step (State.reset.withFetchWord 32 6) = .next { State.reset with ecode := 3, err := true, resp := .done } ∧
    ¬ResetsNext (State.reset.withFetchWord 32 6) :=
  ⟨rfl, (by rintro (h | ⟨t, h⟩) <;> cases h), rfl, (by rintro (h | ⟨t, h⟩) <;> cases h)⟩

/-- FAULT rises (P2I-9) and falls. -/
theorem test_witness_FaultLatchIsSetByP2iAndClearedByReset :
    step (State.reset.withFetchWord 32 2) = .next { faulted with resp := .done } ∧
    step { faulted with pending := [.reset] } = .next State.reset ∧ State.reset.fault = false ∧ faulted.fault = true :=
  ⟨rfl, rfl, rfl, rfl⟩

/-- A faulted block with each kind of access to deliver. -/
theorem test_witness_FaultedBlockIgnoresCommands :
    faulted.fault = true ∧
    (faulted.withFetchWord 32 1).pending = [.transfer (commandTransfer faulted.base 1)] ∧
    (offering 0 4 .read).pending = [.transfer (regRead 0 (regOffset .cmd))] ∧
    (offering 0x1C 4 (.write 7)).pending = [.transfer (regWrite 0 (regOffset (.int 3)) 7)] ∧
    (offering 0x20 4 (.write 7)).pending = [.transfer (regWrite 0 (regOffset (.pk 0)) 7)] ∧
    (offering 0x4C 4 (.write 7)).pending = [.transfer (regWrite 0 (regOffset (.w 7)) 7)] ∧
    (offering 0x04 4 (.write 0x100)).pending = [.transfer (regWrite 0 (regOffset .status) 0x100)] := by decide

theorem test_witness_FaultedStateRunsNoCommand : Faulted faulted := by decide

/-- Bits at each end of the reserved fields. -/
theorem test_witness_ReservedStatusBitsReadZero :
    ((1 ≤ 1 ∧ 1 ≤ 3) ∨ 10 ≤ 1) ∧ ((1 ≤ 3 ∧ 3 ≤ 3) ∨ 10 ≤ 3) ∧ ((1 ≤ 10 ∧ 10 ≤ 3) ∨ 10 ≤ 10) ∧
    ¬((1 ≤ 4 ∧ 4 ≤ 3) ∨ 10 ≤ 4) ∧ ¬((1 ≤ 9 ∧ 9 ≤ 3) ∨ 10 ≤ 9) := by decide

theorem test_witness_ConfigIsConstant :
    (offering 8 4 (.write 0)).pending = [.transfer (regWrite 0 0x08 0)] := by decide

/-- Offsets at the boundaries of the map: 0x0C, 0x4C and 0x50. -/
theorem test_witness_RegisterMapIsExact :
    regAt 0x0C = none ∧ regAt 0x4C = some (.w 7) ∧ regAt 0x50 = none ∧ regAt 0xFC = none := by decide

theorem test_witness_RejectedTransferHasNoEffect :
    (offering 0x4C 2 .read).pending = [.transfer { addr := State.reset.base + 0x4C, size := 2, access := .read }] ∧
    (offering 0x12 4 .read).pending = [.transfer { addr := State.reset.base + 0x12, size := 4, access := .read }] ∧
    (offering 0x0C 4 .read).pending = [.transfer { addr := State.reset.base + 0x0C, size := 4, access := .read }] ∧
    (offering 0x50 4 .read).pending = [.transfer { addr := State.reset.base + 0x50, size := 4, access := .read }] := by decide

theorem test_witness_ReadReturnsTheRegister :
    (offering 0x2C 4 .read).pending = [.transfer (regRead State.reset.base (regOffset (.pk 3)))] := by decide

theorem test_witness_DataWriteIsReadBack :
    Reg.w 7 ≠ .cmd ∧ Reg.w 7 ≠ .status ∧ Reg.w 7 ≠ .config ∧
    (offering 0x4C 4 (.write 9)).pending = [.transfer (regWrite State.reset.base (regOffset (.w 7)) 9)] := by decide

theorem test_witness_StatusWriteClearsErrOnly :
    (offering 4 4 (.write 0x100)).pending = [.transfer (regWrite State.reset.base 0x04 0x100)] := by decide

/-- An address just past the window, and one just below the window of a block placed at 256. -/
theorem test_witness_AccessOutsideTheWindowIsIgnored :
    (offering 256 4 .read).pending = [.transfer { addr := 256, size := 4, access := .read }] ∧
    State.reset.base + 256 ≤ 256 ∧ 255 < (State.resetAt 256).base := by decide

theorem test_witness_PlacementDoesNotMatter : 0xFF < 256 := by decide

theorem test_witness_ResetOverwritesEveryRegister :
    { faulted with pending := [.reset] }.pending = .reset :: [] ∧
    { faulted with pending := [.resetDuring (commandTransfer 0 1)] }.pending =
      .resetDuring (commandTransfer 0 1) :: [] := by decide

theorem test_witness_ResetStateIsLegal : 512 % 256 = 0 := by decide

theorem test_witness_StepKeepsLegalStates :
    LegalState (State.resetAt 256) ∧ LegalState faulted ∧ step (State.resetAt 256) = .next (State.resetAt 256) :=
  ⟨⟨by decide, by decide, by decide⟩, ⟨by decide, by decide, by decide⟩, rfl⟩

/-- A representable integer, and ones above and below. -/
theorem test_witness_IntegerToPackedRefinesTheDocument :
    (withInteger 5).fault = false ∧ PresentsInteger 5 (withInteger 5) ∧ PresentsInteger (-1) (withInteger 5) ∧
    PresentsInteger (2 ^ 128) (withInteger 5) := by decide

/-- Sixteen bytes, and a sequence too short. -/
theorem test_witness_PackedToIntegerRefinesTheDocument :
    State.reset.fault = false ∧ RangeTag.inRange ≠ .reserved ∧ PresentsBytes (List.replicate 16 0) State.reset ∧
    PresentsBytes (List.replicate 15 0) State.reset := by decide

theorem test_witness_IntegerToWordsRefinesTheDocument :
    (withInteger 5).fault = false ∧ PresentsInteger 5 (withInteger 5) ∧ PresentsInteger (-1) (withInteger 5) := by decide

/-- Valid words; a negative one, presented as R44 says; and too few. -/
theorem test_witness_WordsToIntegerRefinesTheDocument :
    (withLanes #v[1, 2, 3, 4, 5, 6, 7, 0xFFFF]).fault = false ∧ RangeTag.inRange ≠ .reserved ∧
    PresentsWords [1, 2, 3, 4, 5, 6, 7, 65535] (withLanes #v[1, 2, 3, 4, 5, 6, 7, 0xFFFF]) ∧
    PresentsWords [1, 2, 3, 4, 5, 6, 7, -1] (withLanes #v[1, 2, 3, 4, 5, 6, 7, 0xFFFFFFFF]) ∧
    PresentsWords [1, 2] (withLanes #v[1, 2, 3, 4, 5, 6, 7, 0xFFFF]) := by decide

theorem test_witness_ValidateWordsRefinesTheDocument :
    (withLanes #v[1, 2, 3, 4, 5, 6, 7, 0xFFFF]).fault = false ∧ RangeTag.below ≠ .reserved ∧
    PresentsWords [1, 2, 3, 4, 5, 6, 7, 65535] (withLanes #v[1, 2, 3, 4, 5, 6, 7, 0xFFFF]) := by decide

theorem test_witness_AssemblerEmitsLegalWords :
    assembleCommand .i2w (some 2) none = some (.i2w .below 0) ∧ assembleCommand .vw none (some 31) ≠ none := by decide

end Sys2Proof.Tests
end

section
/-! What every step keeps (10_state.md R28, 60_exceptions.md R115, R116), and that the placement of the block does not
matter (00_scope.md R7, 20_memory.md R41). -/

namespace Sys2Proof.Machine

/-! ## The legal states -/

/-- The invariant speaks of ECODE, FAULT and BASE only. -/
theorem LegalState.of_same {s t : State} (h : LegalState s) (hecode : t.ecode = s.ecode) (hfault : t.fault = s.fault)
    (hbase : t.base = s.base) : LegalState t where
  ecode_legal := hecode ▸ h.ecode_legal
  fault_iff := by rw [hfault, hecode]; exact h.fault_iff
  base_aligned := hbase ▸ h.base_aligned

/-- A state whose ECODE is an outcome's code is legal if FAULT says whether that is CONTRACT_VIOLATION (R115). -/
theorem LegalState.of_code {t : State} (e : ErrorCode) (hecode : t.ecode = errorBits e)
    (hfault : t.fault = true ↔ e = .contractViolation) (hbase : t.base % 256 = 0) : LegalState t where
  ecode_legal := by rw [hecode]; cases e <;> decide
  fault_iff := by rw [hecode, hfault]; cases e <;> decide
  base_aligned := hbase

/-- The command that led from `s` to `t` ended with outcome `e`: ECODE is its code (R110), and FAULT is set exactly for
CONTRACT_VIOLATION (R115). -/
structure ReportsCode (s t : State) (e : ErrorCode) : Prop where
  ecode_eq : t.ecode = errorBits e
  fault_iff : t.fault = true ↔ e = .contractViolation
  base_eq : t.base = s.base

theorem reportsCode_succeed {s u : State} (hf : u.fault = false) (hb : u.base = s.base) :
    ReportsCode s (succeed u) .ok :=
  ⟨rfl, by simp [hf], hb⟩

theorem reportsCode_fail {s : State} (hf : s.fault = false) {e : ErrorCode} (he : e ≠ .contractViolation) :
    ReportsCode s (fail e s) e :=
  ⟨rfl, by simp [hf, he], rfl⟩

theorem reportsCode_latchFault (s : State) : ReportsCode s (latchFault s) .contractViolation :=
  ⟨rfl, by simp, rfl⟩

/-- A command that runs ends with one of the outcomes of R110. -/
theorem exec_reportsCode {i : Instr} {s t : State} (hf : s.fault = false) (h : exec i s = .next t) :
    ∃ e, ReportsCode s t e := by
  rcases exec_cases i s t h with ⟨hf', -⟩ | ⟨-, -, rfl⟩ | ⟨-, -, hrun⟩
  · simp [hf] at hf'
  · exact ⟨_, reportsCode_fail hf (by decide)⟩
  · rcases hrun with ⟨-, -, -, rfl⟩ | ⟨-, -, rfl⟩ | ⟨-, -, -, -, rfl⟩ | ⟨-, -, rfl⟩ | ⟨-, -, -, -, rfl⟩ | ⟨-, -, rfl⟩ |
      ⟨-, -, -, -, rfl⟩ | ⟨-, -, -, -, rfl⟩ | ⟨-, -, -, -, rfl⟩ | ⟨-, -, -, rfl⟩
    · exact ⟨_, reportsCode_succeed hf rfl⟩
    · exact ⟨_, reportsCode_succeed hf rfl⟩
    · exact ⟨_, reportsCode_fail hf (by decide)⟩
    · exact ⟨_, reportsCode_succeed hf rfl⟩
    · exact ⟨_, reportsCode_latchFault s⟩
    · exact ⟨_, reportsCode_succeed hf rfl⟩
    · exact ⟨_, reportsCode_fail hf (by decide)⟩
    · exact ⟨_, reportsCode_succeed hf rfl⟩
    · exact ⟨_, reportsCode_fail hf (by decide)⟩
    · exact ⟨_, reportsCode_succeed hf rfl⟩

/-- A command that runs from a legal state leaves a legal state. -/
theorem exec_keeps_legal {i : Instr} {s t : State} (hs : LegalState s) (hf : s.fault = false)
    (h : exec i s = .next t) : LegalState t := by
  obtain ⟨e, hecode, hfault, hbase⟩ := exec_reportsCode hf h
  exact .of_code e hecode hfault (hbase ▸ hs.base_aligned)

/-- Settles O46: a reset and a CMD write that runs leave the code of their outcome, and every other interaction keeps
ECODE, FAULT and BASE. -/
theorem stepKeepsLegalStates : Obligations.StepKeepsLegalStates := by
  intro s t hs h
  rcases step_cases h with ⟨-, rfl⟩ | ⟨_, -, rfl⟩ | ⟨_, _, -, rfl⟩ | ⟨_, _, -, _, rfl⟩ | ⟨_, _, -, -, rfl⟩ |
    ⟨_, rest, -, hf, -, rfl⟩ | ⟨_, rest, _, u, -, hf, -, hu, rfl⟩ | ⟨_, _, -, rfl⟩ | ⟨_, _, _, -, rfl⟩ |
    ⟨_, _, _, -, rfl⟩ | ⟨_, _, _, -, rfl⟩
  · exact hs
  · exact .of_code .ok rfl (by simp) hs.base_aligned
  · exact .of_code .ok rfl (by simp) hs.base_aligned
  · exact hs.of_same rfl rfl rfl
  · exact hs.of_same rfl rfl rfl
  · exact .of_code .illegalCommand rfl (by simp [hf]) hs.base_aligned
  · have hpopped : LegalState { s with pending := rest } := hs.of_same rfl rfl rfl
    exact (exec_keeps_legal hpopped hf hu).of_same rfl rfl rfl
  · exact hs.of_same (by simp) (by simp) (by simp)
  · exact hs.of_same rfl rfl rfl
  · exact hs.of_same rfl rfl rfl
  · exact hs.of_same rfl rfl rfl

/-! ## The placement of the block

Each operation on a block placed elsewhere does what it does on the block where it stands. -/

/-- The same block, placed at `b` (R7). -/
def State.placedAt (s : State) (b : Nat) : State := { s with base := b }

@[simp] theorem placedAt_fault (s : State) (b : Nat) : (s.placedAt b).fault = s.fault := rfl

theorem runCommand_placedAt {range : RangeTag} {body : State → State} {s : State} {b : Nat}
    (hbody : body (s.placedAt b) = (body s).placedAt b) :
    runCommand range body (s.placedAt b) = (runCommand range body s).placedAt b := by
  rcases runCommand_cases range body s with ⟨hf, h⟩ | ⟨hf, rfl, h⟩ | ⟨hf, hr, h⟩ <;> rw [h]
  · exact runCommand_of_faulted ((placedAt_fault s b).trans hf) range body
  · exact runCommand_of_reserved ((placedAt_fault s b).trans hf) body
  · exact (runCommand_of_ready ((placedAt_fault s b).trans hf) hr body).trans hbody

theorem integerToPacked_placedAt (range : RangeTag) (s : State) (b : Nat) :
    integerToPacked range (s.placedAt b) = (integerToPacked range s).placedAt b := by
  have hop : intOperand range (s.placedAt b) = intOperand range s := rfl
  rw [integerToPacked, hop, integerToPacked]
  cases intOperand range s <;> rfl

theorem integerToWords_placedAt (range : RangeTag) (s : State) (b : Nat) :
    integerToWords range (s.placedAt b) = (integerToWords range s).placedAt b := by
  have hop : intOperand range (s.placedAt b) = intOperand range s := rfl
  rw [integerToWords, hop, integerToWords]
  cases intOperand range s <;> rfl

theorem packedToInteger_placedAt (count : BitVec 5) (s : State) (b : Nat) :
    packedToInteger count (s.placedAt b) = (packedToInteger count s).placedAt b := by
  have hop : packedOperand count (s.placedAt b) = packedOperand count s := rfl
  rw [packedToInteger, hop, packedToInteger]
  cases packedOperand count s <;> rfl

theorem wordsToInteger_placedAt (count : BitVec 5) (s : State) (b : Nat) :
    wordsToInteger count (s.placedAt b) = (wordsToInteger count s).placedAt b := by
  have hop : wordsOperand count (s.placedAt b) = wordsOperand count s := rfl
  rw [wordsToInteger, hop, wordsToInteger]
  cases wordsOperand count s <;> rfl

theorem exec_placedAt (i : Instr) (s : State) (b : Nat) :
    ∃ t, exec i s = .next t ∧ exec i (s.placedAt b) = .next (t.placedAt b) := by
  refine (exec_answers_next i s).imp fun t h => ⟨h, ?_⟩
  cases i with
  | nop r c => cases h; exact congrArg _ (runCommand_placedAt rfl)
  | i2p r c => cases h; exact congrArg _ (runCommand_placedAt (integerToPacked_placedAt r s b))
  | p2i r c => cases h; exact congrArg _ (runCommand_placedAt (packedToInteger_placedAt c s b))
  | i2w r c => cases h; exact congrArg _ (runCommand_placedAt (integerToWords_placedAt r s b))
  | w2i r c => cases h; exact congrArg _ (runCommand_placedAt (wordsToInteger_placedAt c s b))
  | vw r c => cases h; exact congrArg _ (runCommand_placedAt rfl)

theorem writeCmd_placedAt (c : Word) (s : State) (b : Nat) :
    ∃ t, writeCmd c s = .next t ∧ writeCmd c (s.placedAt b) = .next (t.placedAt b) := by
  rcases writeCmd_cases c s with ⟨hf, h⟩ | ⟨hf, ⟨e, he⟩, h⟩ | ⟨hf, i, hi, h⟩
  · exact ⟨s, h, by simp [writeCmd, hf]⟩
  · exact ⟨_, h, by simp [writeCmd, hf, he]; rfl⟩
  · have h' : writeCmd c (s.placedAt b) = exec i (s.placedAt b) := by simp [writeCmd, hf, hi]
    rw [h, h']
    exact exec_placedAt i s b

theorem writeReg_placedAt (r : Reg) (v : Word) (s : State) (b : Nat) :
    ∃ t, writeReg r v s = .next t ∧ writeReg r v (s.placedAt b) = .next (t.placedAt b) := by
  cases r with
  | cmd => exact writeCmd_placedAt v s b
  | status => exact ⟨_, rfl, by simp only [writeReg, writeStatus_eq, State.placedAt]⟩
  | config => exact ⟨_, rfl, rfl⟩
  | int i => exact ⟨_, rfl, rfl⟩
  | pk j => exact ⟨_, rfl, rfl⟩
  | w k => exact ⟨_, rfl, rfl⟩

theorem readReg_placedAt (r : Reg) (s : State) (b : Nat) : readReg r (s.placedAt b) = readReg r s := by
  cases r <;> rfl

theorem accessReg_placedAt (r : Reg) (a : Access) (s : State) (b : Nat) :
    ∃ t, accessReg r a s = .next t ∧ accessReg r a (s.placedAt b) = .next (t.placedAt b) := by
  cases a with
  | read => exact ⟨_, rfl, by simp only [accessReg, readReg_placedAt]; rfl⟩
  | write v =>
    obtain ⟨t, ht, ht'⟩ := writeReg_placedAt r v s b
    exact ⟨respond .done t, by rw [accessReg, ht]; rfl, by rw [accessReg, ht']; rfl⟩

/-- A transfer inside the window, by its offset: rejected, or an access of a register (R41–R45). -/
theorem performTransfer_offset {off : Nat} (h : off < 256) (size : Nat) (a : Access) (s : State) :
    performTransfer { addr := s.base + off, size := size, access := a } s =
      (acceptedReg off size).elim (.next (respond .busError s)) (accessReg · a s) := by
  simp only [performTransfer, windowOffset_add _ _ h]
  cases acceptedReg off size <;> rfl

theorem performTransfer_placedAt {off : Nat} (h : off < 256) (size : Nat) (a : Access) (s : State) (b : Nat) :
    ∃ t, performTransfer { addr := s.base + off, size := size, access := a } s = .next t ∧
      performTransfer { addr := b + off, size := size, access := a } (s.placedAt b) = .next (t.placedAt b) := by
  have here := performTransfer_offset h size a s
  have there := performTransfer_offset h size a (s.placedAt b)
  cases hr : acceptedReg off size with
  | none =>
    rw [hr] at here there
    exact ⟨_, here, there⟩
  | some r =>
    rw [hr] at here there
    exact (accessReg_placedAt r a s b).imp fun t ⟨ht, ht'⟩ => ⟨here.trans ht, there.trans ht'⟩

/-- Settles O42: BASE enters a step only through the offset, and no operation behind the register map reads it. -/
theorem placementDoesNotMatter : Obligations.PlacementDoesNotMatter :=
  fun s b _ size a hoff => performTransfer_placedAt hoff size a { s with pending := [] } b

end Sys2Proof.Machine
end

section
/-! The commands against the document's own functions (00_scope.md R3, 20_memory.md R44, 30_encoding.md R66, R67). -/

namespace Sys2Proof.Machine

/-! ## A legal command in a state that is not faulted is its body -/

section
variable {s : State} {r : RangeTag} (hf : s.fault = false) (hr : r ≠ .reserved)
include hf hr

theorem exec_i2p_of_ready (c : BitVec 5) : exec (.i2p r c) s = .next (integerToPacked r s) :=
  congrArg _ (runCommand_of_ready hf hr _)

theorem exec_p2i_of_ready (c : BitVec 5) : exec (.p2i r c) s = .next (packedToInteger c s) :=
  congrArg _ (runCommand_of_ready hf hr _)

theorem exec_i2w_of_ready (c : BitVec 5) : exec (.i2w r c) s = .next (integerToWords r s) :=
  congrArg _ (runCommand_of_ready hf hr _)

theorem exec_w2i_of_ready (c : BitVec 5) : exec (.w2i r c) s = .next (wordsToInteger c s) :=
  congrArg _ (runCommand_of_ready hf hr _)

theorem exec_vw_of_ready (c : BitVec 5) : exec (.vw r c) s = .next (validateWords c s) :=
  congrArg _ (runCommand_of_ready hf hr _)

end

/-! ## Lists given by their elements -/

theorem list_eq_ofFn {α : Type} {n : Nat} {l : List α} {f : Fin n → α} (hlen : l.length = n)
    (h : ∀ k : Fin n, l[k.val]'(hlen ▸ k.isLt) = f k) : l = List.ofFn f := by
  subst hlen
  rw [← funext h, List.ofFn_getElem]

theorem map_range_eq_ofFn {α : Type} (n : Nat) (f : Nat → α) :
    (List.range n).map f = List.ofFn fun k : Fin n => f k := by
  rw [List.ofFn_eq_map, ← List.map_coe_finRange_eq_range, List.map_map]
  rfl

/-! ## The host's presentation (R44, R66, R67) -/

theorem rangeTagOf_ne_reserved (v : Int) : rangeTagOf v ≠ .reserved := by
  unfold rangeTagOf
  split_ifs <;> decide

theorem rangeTagOf_eq_inRange_iff (v : Int) : rangeTagOf v = .inRange ↔ 0 ≤ v ∧ v ≤ Config.maxInt := by
  unfold rangeTagOf
  split_ifs with hneg hmax
  · simp [hneg]
  · simp [hmax, Int.not_lt.mp hneg]
  · simp [hmax]

/-- COUNT tells a length below 31 from every other (R67). -/
theorem presentedCount_eq_iff {m : Nat} (hm : m < 31) (n : Nat) : presentedCount n = BitVec.ofNat 5 m ↔ n = m := by
  rw [presentedCount, ← BitVec.toNat_inj, BitVec.toNat_ofNat, BitVec.toNat_ofNat]
  omega

/-- A lane shows whether the word it presents is a valid one (R44). -/
theorem PresentsWord.valid_iff {x : Int} {lane : Word} (h : PresentsWord x lane) :
    lane.toNat ≤ 0xFFFF ↔ 0 ≤ x ∧ x ≤ Config.maxWord := by
  have hmax : (Config.maxWord : Int) = 65535 := rfl
  unfold PresentsWord at h
  split_ifs at h <;> omega

/-- A valid word stands in its lane as it is (R44). -/
theorem PresentsWord.toNat_eq {x : Int} {lane : Word} (h : PresentsWord x lane) (hlane : lane.toNat ≤ 0xFFFF) :
    x.toNat = lane.toNat := by
  unfold PresentsWord at h
  split_ifs at h <;> omega

/-- VW's and W2I's check of the presented sequence is `validate_words` of the host's (R92). -/
theorem PresentsWords.valid_iff {words : List Int} {s : State} (h : PresentsWords words s) :
    wordsValid (presentedCount words.length) s ↔ docValidateWords words := by
  rw [wordsValid_iff, docValidateWords, show (8 : BitVec 5) = BitVec.ofNat 5 8 from rfl,
    presentedCount_eq_iff (by decide), show Config.numWords = 8 from rfl]
  refine and_congr_right fun hlen => ⟨fun hall x hx => ?_, fun hall k => ?_⟩
  · obtain ⟨k, hk, rfl⟩ := List.getElem_of_mem hx
    have hk8 : k < 8 := hlen ▸ hk
    exact (h ⟨k, hk8⟩ hk).valid_iff.mp (hall ⟨k, hk8⟩)
  · have hk : k.val < words.length := by omega
    exact (h k hk).valid_iff.mpr (hall _ (List.getElem_mem hk))

/-- A valid presented sequence is the lanes' contents. -/
theorem PresentsWords.map_toNat {words : List Int} {s : State} (h : PresentsWords words s)
    (hv : docValidateWords words) : words.map Int.toNat = List.ofFn fun k : Fin 8 => s.w[k].toNat := by
  obtain ⟨-, hlanes⟩ := (wordsValid_iff _ _).mp (h.valid_iff.mpr hv)
  have hlen : words.length = 8 := hv.1
  refine list_eq_ofFn ((List.length_map _).trans hlen) fun k => ?_
  rw [List.getElem_map]
  exact (h k (by omega)).toNat_eq (hlanes k)

/-- A presented sequence of sixteen bytes is b0..b15. -/
theorem PresentsBytes.eq_ofFn {bytes : List Byte} {s : State} (h : PresentsBytes bytes s) (hlen : bytes.length = 16) :
    bytes = List.ofFn (packedByte s) :=
  list_eq_ofFn hlen fun k => (h k (by omega)).symm

/-! ## The results as lists of numbers, the most significant first -/

/-- Byte b_k of the packed form of v is v[127−8k:120−8k] (R48, R80). -/
theorem packedByte_of_packGroups {s : State} {v : Address} (h : s.pk = packGroups v) (k : Fin 16) :
    packedByte s k = v.extractLsb' (120 - 8 * k.val) 8 := by
  simp only [packedByte, h, packGroups, Vector.getElem_ofFn]
  rw [field_field _ _ _ _ _ (by omega)]
  congr 1
  omega

/-- Lane k of v's words as a number (R90). -/
theorem toNat_laneWords (v : Address) (k : Fin 8) :
    (laneWords v)[k].toNat = v.toNat / 2 ^ (112 - 16 * k.val) % 2 ^ 16 := by
  have hlt : v.toNat / 2 ^ (112 - 16 * k.val) % 2 ^ 16 < 2 ^ 16 := Nat.mod_lt _ (by decide)
  simp only [laneWords, Fin.getElem_fin, Vector.getElem_ofFn, BitVec.toNat_setWidth, toNat_field]
  omega

/-- A byte of the packed registers as a number. -/
theorem toNat_packedByte (s : State) (k : Fin 16) :
    (packedByte s k).toNat = (s.pk[k.val / 4]'(by omega)).toNat / 2 ^ (24 - 8 * (k.val % 4)) % 2 ^ 8 :=
  toNat_field _ _ _

/-- A 32-bit register is the big-endian value of its four bytes. -/
theorem toNat_eq_bytes (x : Word) : x.toNat =
    ((x.toNat / 2 ^ 24 % 2 ^ 8 * 256 + x.toNat / 2 ^ 16 % 2 ^ 8) * 256 + x.toNat / 2 ^ 8 % 2 ^ 8) * 256 +
      x.toNat / 2 ^ 0 % 2 ^ 8 := by
  have := x.isLt
  omega

/-- PK0..PK3 hold the big-endian value of b0..b15 (R81). -/
theorem foldl_packedBytes (s : State) :
    (List.ofFn (packedByte s)).foldl (fun acc b => acc * 256 + b.toNat) 0 = (packedValue s).toNat := by
  rw [packedValue_toNat, toNat_eq_bytes s.pk[0], toNat_eq_bytes s.pk[1], toNat_eq_bytes s.pk[2],
    toNat_eq_bytes s.pk[3]]
  simp [List.ofFn_succ, toNat_packedByte]
  omega

/-- W0..W7 hold the big-endian value of their contents where these are valid words (R91). -/
theorem foldl_lanes {s : State} (h : ∀ k : Fin 8, s.w[k].toNat ≤ 0xFFFF) :
    (List.ofFn fun k : Fin 8 => s.w[k].toNat).foldl (fun acc w => acc * 65536 + w) 0 = (wordsValue s).toNat := by
  have hmod : ∀ (k : Nat) (hk : k < 8), s.w[k].toNat % 2 ^ 16 = s.w[k].toNat := fun k hk =>
    Nat.mod_eq_of_lt (Nat.lt_succ_of_le (h ⟨k, hk⟩))
  simp only [wordsValue_toNat, hmod]
  simp [List.ofFn_succ]
  omega

/-! ## I2P and I2W (R80, R90) -/

/-- An integer that the host presents in range stands in INT0..INT3. -/
theorem PresentsInteger.toNat_eq {v : Int} {s : State} (h : PresentsInteger v s) (hv : 0 ≤ v ∧ v ≤ Config.maxInt) :
    v.toNat = (intValue s).toNat := by
  have := h hv.1 hv.2
  omega

/-- The bytes of `integer_to_packed` are those that PK0..PK3 hold after I2P. -/
theorem docBytes_eq_packedBytes {n : Nat} {v : Address} {s : State} (hn : n = v.toNat) (hs : s.pk = packGroups v) :
    (List.range Config.packedBytes).map (fun k => n / 256 ^ (15 - k) % 256) =
      List.ofFn fun k : Fin 16 => (packedByte s k).toNat := by
  rw [map_range_eq_ofFn]
  refine congrArg List.ofFn (funext fun k : Fin 16 => ?_)
  have hexp : 120 - 8 * k.val = 8 * (15 - k.val) := by omega
  rw [packedByte_of_packGroups hs, toNat_field, hn, hexp, Nat.pow_mul, show 2 ^ 8 = 256 from rfl]

/-- The words of `integer_to_words` are those that I2W leaves in the lanes. -/
theorem docWords_eq_laneWords {n : Nat} {v : Address} (hn : n = v.toNat) :
    (List.range Config.numWords).map (fun k => n / 65536 ^ (7 - k) % 65536) =
      List.ofFn fun k : Fin 8 => (laneWords v)[k].toNat := by
  rw [map_range_eq_ofFn]
  refine congrArg List.ofFn (funext fun k : Fin 8 => ?_)
  have hexp : 112 - 16 * k.val = 16 * (7 - k.val) := by omega
  rw [toNat_laneWords, hn, hexp, Nat.pow_mul, show 2 ^ 16 = 65536 from rfl]

/-- Settles O47: the tag says whether `integer_to_packed` raises, and each byte of its result is a field of IntValue(). -/
theorem integerToPackedRefinesTheDocument : Obligations.IntegerToPackedRefinesTheDocument := by
  intro v s c hf hpres
  refine ⟨_, exec_i2p_of_ready hf (rangeTagOf_ne_reserved v) c, ?_⟩
  rcases integerToPacked_cases (rangeTagOf v) s with ⟨hr, h⟩ | ⟨hr, h⟩ <;> rw [h, docIntegerToPacked]
  · rw [rangeTagOf_eq_inRange_iff] at hr
    rw [if_pos hr]
    exact ⟨rfl, docBytes_eq_packedBytes (hpres.toNat_eq hr) rfl⟩
  · rw [if_neg (hr ∘ (rangeTagOf_eq_inRange_iff v).mpr)]
    exact ⟨rfl, rfl⟩

/-- Settles O49: the tag says whether `integer_to_words` raises, and each word of its result is a field of IntValue(). -/
theorem integerToWordsRefinesTheDocument : Obligations.IntegerToWordsRefinesTheDocument := by
  intro v s c hf hpres
  refine ⟨_, exec_i2w_of_ready hf (rangeTagOf_ne_reserved v) c, ?_⟩
  rcases integerToWords_cases (rangeTagOf v) s with ⟨hr, h⟩ | ⟨hr, h⟩ <;> rw [h, docIntegerToWords]
  · rw [rangeTagOf_eq_inRange_iff] at hr
    rw [if_pos hr]
    exact ⟨rfl, docWords_eq_laneWords (hpres.toNat_eq hr)⟩
  · rw [if_neg (hr ∘ (rangeTagOf_eq_inRange_iff v).mpr)]
    exact ⟨rfl, rfl⟩

/-! ## P2I, W2I and VW (R81, R91, R92) -/

/-- Settles O48: COUNT tells whether the length is 16, and the sixteen bytes are then b0..b15. -/
theorem packedToIntegerRefinesTheDocument : Obligations.PackedToIntegerRefinesTheDocument := by
  intro bytes s r hf hr hpres
  have hcount := presentedCount_eq_iff (m := 16) (by decide) bytes.length
  refine ⟨_, exec_p2i_of_ready hf hr _, ?_⟩
  rcases packedToInteger_cases (presentedCount bytes.length) s with ⟨hc, h⟩ | ⟨hc, h⟩ <;>
    rw [h, docPackedToInteger]
  · have hlen : bytes.length = Config.packedBytes := hcount.mp hc
    rw [if_pos hlen]
    refine ⟨rfl, ?_⟩
    calc (intValue (setInt (packedValue s) s)).toNat
        = (packedValue s).toNat := by rw [intValue_setInt]
      _ = (List.ofFn (packedByte s)).foldl (fun acc b => acc * 256 + b.toNat) 0 := (foldl_packedBytes s).symm
      _ = bytes.foldl (fun acc b => acc * 256 + b.toNat) 0 := by rw [← hpres.eq_ofFn hlen]
  · have hlen : bytes.length ≠ Config.packedBytes := fun hlen => hc (hcount.mpr hlen)
    rw [if_neg hlen]
    exact ⟨rfl, rfl, rfl⟩

/-- Settles O50: the block's check of the lanes is `validate_words`, and valid lanes hold the words themselves. -/
theorem wordsToIntegerRefinesTheDocument : Obligations.WordsToIntegerRefinesTheDocument := by
  intro words s r hf hr hpres
  refine ⟨_, exec_w2i_of_ready hf hr _, ?_⟩
  rcases wordsToInteger_cases (presentedCount words.length) s with ⟨hv, h⟩ | ⟨hv, h⟩ <;> rw [h, docWordsToInteger]
  · have hdoc := hpres.valid_iff.mp hv
    obtain ⟨-, hlanes⟩ := (wordsValid_iff _ _).mp hv
    rw [if_pos hdoc]
    refine ⟨rfl, ?_⟩
    calc (intValue (setInt (wordsValue s) s)).toNat
        = (wordsValue s).toNat := by rw [intValue_setInt]
      _ = (List.ofFn fun k : Fin 8 => s.w[k].toNat).foldl (fun acc w => acc * 65536 + w) 0 :=
          (foldl_lanes hlanes).symm
      _ = words.foldl (fun acc w => acc * 65536 + w.toNat) 0 := by rw [← hpres.map_toNat hdoc, List.foldl_map]
  · rw [if_neg (hpres.valid_iff.not.mp hv)]
    exact ⟨rfl, rfl⟩

/-- Settles O51: VW leaves in VALID its check of the lanes, which is `validate_words`. -/
theorem validateWordsRefinesTheDocument : Obligations.ValidateWordsRefinesTheDocument := fun _ _ _ hf hr hpres =>
  ⟨_, exec_vw_of_ready hf hr _, rfl, decide_eq_true_iff.trans hpres.valid_iff⟩

end Sys2Proof.Machine
end

section
/-! The line `LDI v` of a host program, delivered transfer by transfer (30_encoding.md R73). -/

namespace Sys2Proof.Machine

/-- The step that delivers a word write of INT[i] (R47). -/
theorem step_of_intWrite {s : State} {i : Fin 4} {v : Word} {rest : List HostEvent}
    (h : s.pending = .transfer (regWrite s.base (regOffset (.int i)) v) :: rest) :
    step s = .next { s with pending := rest, int := s.int.set i v, resp := .done } :=
  step_of_access h

/-- The writes of `LDI v`, the least significant limb first (R73). -/
theorem assemble_ldi (base : Nat) (v : Address) : assemble base (.ldi v) = some
    [regWrite base (regOffset (.int 0)) (intLimbs v)[0], regWrite base (regOffset (.int 1)) (intLimbs v)[1],
      regWrite base (regOffset (.int 2)) (intLimbs v)[2], regWrite base (regOffset (.int 3)) (intLimbs v)[3]] :=
  rfl

/-- Writing every limb leaves nothing of what stood in INT0..INT3. -/
theorem set_all_limbs (x y : Vector Word 4) :
    (((x.set 0 y[0]).set 1 y[1]).set 2 y[2]).set 3 y[3] = y := by
  ext i hi
  match i with
  | 0 | 1 | 2 | 3 => simp

/-- Settles O53: four writes that the bus accepts, faulted or not, put the four limbs of v into INT0..INT3. -/
theorem loadIntegerLineLoadsTheInteger : Obligations.LoadIntegerLineLoadsTheInteger := by
  intro s v
  refine ⟨_, { s with int := intLimbs v, resp := .done }, assemble_ldi s.base v, ?_, intValue_setInt v s, rfl⟩
  simp only [List.length_cons, List.length_nil]
  rw [runSteps_succ (step_of_intWrite rfl), runSteps_succ (step_of_intWrite rfl),
    runSteps_succ (step_of_intWrite rfl), runSteps_succ (step_of_intWrite rfl)]
  exact congrArg (fun limbs => Host.Outcome.next { s with int := limbs, resp := .done })
    (set_all_limbs s.int (intLimbs v))

end Sys2Proof.Machine
end

section
/-! What the decoder reads from a word (30_encoding.md R61–R66): its fields where it accepts, and when it refuses. -/

namespace Sys2Proof

/-- The opcode map refuses exactly the reserved opcodes (R65). -/
theorem commandOf_error_iff (op : BitVec 4) (r : RangeTag) (n : BitVec 5) :
    (∃ e, commandOf op r n = .error e) ↔ 6 ≤ op.toNat := by
  unfold commandOf
  split
  case h_7 h0 h1 h2 h3 h4 h5 =>
    have hnot : ∀ op : BitVec 4, ¬6 ≤ op.toNat → op = 0 ∨ op = 1 ∨ op = 2 ∨ op = 3 ∨ op = 4 ∨ op = 5 := by decide
    refine ⟨fun _ => ?_, fun _ => ⟨_, rfl⟩⟩
    by_contra h
    rcases hnot op h with h | h | h | h | h | h <;> contradiction
  all_goals simp

/-- A command of the opcode map holds the fields it was made of (R61, R62). -/
theorem fields_of_commandOf {op : BitVec 4} {r : RangeTag} {n : BitVec 5} {i : Instr}
    (h : commandOf op r n = .ok i) : opcode i = op ∧ i.range = r ∧ i.count = n := by
  unfold commandOf at h
  split at h <;> cases h <;> exact ⟨rfl, rfl, rfl⟩

/-- The decoder refuses exactly the illegal words (R64–R66). -/
theorem decodeWord_error_iff (c : Word) : (∃ e, decodeWord c = .error e) ↔ Machine.IllegalWord c := by
  have hhigh : reservedHigh c = c.extractLsb' 13 19 := rfl
  have hlow : reservedLow c = c.extractLsb' 6 2 := rfl
  have hrange : rangeField c = c.extractLsb' 4 2 := rfl
  have hop : opField c = c.extractLsb' 0 4 := rfl
  unfold decodeWord
  rw [Machine.IllegalWord, ← hhigh, ← hlow, ← hrange, ← hop]
  split_ifs with hbits htag
  · exact iff_of_true ⟨_, rfl⟩ (hbits.imp_right .inl)
  · exact iff_of_true ⟨_, rfl⟩ (.inr (.inr (.inl htag)))
  · rw [← or_assoc, or_iff_right hbits, or_iff_right htag]
    exact commandOf_error_iff _ _ _

/-- A word that decodes to a command is legal, and the command holds the word's own fields (R61, R63). -/
theorem fields_of_decodeWord {c : Word} {i : Instr} (h : decodeWord c = .ok i) :
    ¬Machine.IllegalWord c ∧ opcode i = c.extractLsb' 0 4 ∧ i.range = rangeOfBits (c.extractLsb' 4 2) ∧
      i.count = c.extractLsb' 8 5 := by
  refine ⟨fun hill => ?_, ?_⟩
  · obtain ⟨e, he⟩ := (decodeWord_error_iff c).mpr hill
    rw [h] at he
    cases he
  · unfold decodeWord at h
    split_ifs at h
    exact fields_of_commandOf h

/-- RANGE 0b00 and no other is IN_RANGE (R66). -/
theorem rangeOfBits_eq_inRange_iff (b : BitVec 2) : rangeOfBits b = .inRange ↔ b = 0 := by
  revert b; decide

/-- RANGE 0b11 and no other is reserved (R66). -/
theorem rangeOfBits_eq_reserved_iff (b : BitVec 2) : rangeOfBits b = .reserved ↔ b = 3 := by
  revert b; decide

/-- The decoder's commands are legal (R66). -/
theorem wellFormed_of_decodeWord {c : Word} {i : Instr} (h : decodeWord c = .ok i) : i.WellFormed := by
  obtain ⟨hlegal, -, hrange, -⟩ := fields_of_decodeWord h
  rw [Instr.WellFormed, hrange, ne_eq, rangeOfBits_eq_reserved_iff]
  exact fun htag => hlegal (.inr (.inr (.inl htag)))

end Sys2Proof
end

section
/-! What a command changes and what it depends on (10_state.md R33, R34, 30_encoding.md R68). -/

namespace Sys2Proof.Machine

/-- Settles O24: by the cases of `exec_cases`, each of which updates at most one register besides STATUS. -/
theorem commandFrame : Obligations.CommandFrame := by
  intro i s t h
  rcases exec_cases i s t h with ⟨-, rfl⟩ | ⟨-, -, rfl⟩ | ⟨-, -, hrun⟩
  · simp
  · simp [errorBits]
  · rcases hrun with ⟨-, -, rfl, rfl⟩ | ⟨-, rfl, rfl⟩ | ⟨-, -, rfl, -, rfl⟩ | ⟨-, rfl, rfl⟩ | ⟨-, _, rfl, hn, rfl⟩ |
      ⟨-, rfl, rfl⟩ | ⟨-, -, rfl, -, rfl⟩ | ⟨-, -, rfl, -, rfl⟩ | ⟨-, -, rfl, -, rfl⟩ | ⟨-, -, rfl, rfl⟩
    · simp
    · simp [Instr.range, Instr.count]
    · simp [errorBits]
    · simp [Instr.range, Instr.count]
    · simpa [errorBits, Instr.range, Instr.count] using fun _ : s.fault = false => hn
    · simp [Instr.range, Instr.count]
    · simp [errorBits]
    · simp [Instr.range, Instr.count]
    · simp [errorBits]
    · simp [Instr.range, Instr.count, validateWords]

/-! ## No hidden input (R33) -/

theorem intOperand_congr (r : RangeTag) {s s' : State} (h : s.int = s'.int) : intOperand r s = intOperand r s' := by
  simp only [intOperand, intValue, h]

theorem packedOperand_congr (n : BitVec 5) {s s' : State} (h : s.pk = s'.pk) :
    packedOperand n s = packedOperand n s' := by
  simp only [packedOperand, packedValue, h]

theorem wordsValid_congr (n : BitVec 5) {s s' : State} (h : s.w = s'.w) : wordsValid n s ↔ wordsValid n s' := by
  simp only [wordsValid, laneValid, h]

theorem wordsOperand_congr (n : BitVec 5) {s s' : State} (h : s.w = s'.w) : wordsOperand n s = wordsOperand n s' := by
  simp only [wordsOperand, wordsValid_congr n h, wordsValue, laneLow, h]

section
variable {s s' : State} (h : SameRegisters s s')
include h

theorem SameRegisters.succeed : SameRegisters (succeed s) (succeed s') :=
  let ⟨hdata, hvalid, _, herr, hfault⟩ := h
  ⟨hdata, hvalid, rfl, herr, hfault⟩

theorem SameRegisters.fail (e : ErrorCode) : SameRegisters (fail e s) (fail e s') :=
  let ⟨hdata, hvalid, _, _, hfault⟩ := h
  ⟨hdata, hvalid, rfl, rfl, hfault⟩

theorem SameRegisters.latchFault : SameRegisters (latchFault s) (latchFault s') :=
  let ⟨hdata, hvalid, _, _, _⟩ := h
  ⟨hdata, hvalid, rfl, rfl, rfl⟩

theorem SameRegisters.setInt (v : Address) : SameRegisters (setInt v s) (setInt v s') :=
  let ⟨⟨_, hpk, hw⟩, hstatus⟩ := h
  ⟨⟨rfl, hpk, hw⟩, hstatus⟩

theorem SameRegisters.setPacked (v : Address) : SameRegisters (setPacked v s) (setPacked v s') :=
  let ⟨⟨hint, _, hw⟩, hstatus⟩ := h
  ⟨⟨hint, rfl, hw⟩, hstatus⟩

theorem SameRegisters.setLanes (v : Address) : SameRegisters (setLanes v s) (setLanes v s') :=
  let ⟨⟨hint, hpk, _⟩, hstatus⟩ := h
  ⟨⟨hint, hpk, rfl⟩, hstatus⟩

theorem SameRegisters.integerToPacked (r : RangeTag) :
    SameRegisters (integerToPacked r s) (integerToPacked r s') := by
  have ⟨⟨hint, _, _⟩, _⟩ := h
  rw [Machine.integerToPacked, Machine.integerToPacked, intOperand_congr r hint]
  cases intOperand r s' with
  | none => exact h.fail .valueError
  | some v => exact (h.setPacked v).succeed

theorem SameRegisters.integerToWords (r : RangeTag) :
    SameRegisters (integerToWords r s) (integerToWords r s') := by
  have ⟨⟨hint, _, _⟩, _⟩ := h
  rw [Machine.integerToWords, Machine.integerToWords, intOperand_congr r hint]
  cases intOperand r s' with
  | none => exact h.fail .valueError
  | some v => exact (h.setLanes v).succeed

theorem SameRegisters.packedToInteger (n : BitVec 5) :
    SameRegisters (packedToInteger n s) (packedToInteger n s') := by
  have ⟨⟨_, hpk, _⟩, _⟩ := h
  rw [Machine.packedToInteger, Machine.packedToInteger, packedOperand_congr n hpk]
  cases packedOperand n s' with
  | none => exact h.latchFault
  | some v => exact (h.setInt v).succeed

theorem SameRegisters.wordsToInteger (n : BitVec 5) :
    SameRegisters (wordsToInteger n s) (wordsToInteger n s') := by
  have ⟨⟨_, _, hw⟩, _⟩ := h
  rw [Machine.wordsToInteger, Machine.wordsToInteger, wordsOperand_congr n hw]
  cases wordsOperand n s' with
  | none => exact h.fail .rangeError
  | some v => exact (h.setInt v).succeed

theorem SameRegisters.validateWords (n : BitVec 5) : SameRegisters (validateWords n s) (validateWords n s') :=
  let ⟨⟨hint, hpk, hw⟩, _, _, herr, hfault⟩ := h
  ⟨⟨hint, hpk, hw⟩, decide_eq_decide.mpr (wordsValid_congr n hw), rfl, herr, hfault⟩

theorem SameRegisters.runCommand {body : State → State} (hbody : SameRegisters (body s) (body s')) (r : RangeTag) :
    SameRegisters (runCommand r body s) (runCommand r body s') := by
  have ⟨_, _, _, _, hfault⟩ := h
  rcases runCommand_cases r body s with ⟨hf, hs⟩ | ⟨hf, rfl, hs⟩ | ⟨hf, hr, hs⟩ <;> rw [hs] <;> rw [hfault] at hf
  · rwa [runCommand_of_faulted hf]
  · rw [runCommand_of_reserved hf]
    exact h.fail .illegalCommand
  · rwa [runCommand_of_ready hf hr]

end

/-- Settles O25: the operand of each command, and all that `runCommand`, `succeed`, `fail` and `latchFault` read, are
registers. -/
theorem commandsDependOnRegistersOnly : Obligations.CommandsDependOnRegistersOnly := by
  intro i s s' h
  cases i with
  | nop r n => exact ⟨_, _, rfl, rfl, h.runCommand h.succeed r⟩
  | i2p r n => exact ⟨_, _, rfl, rfl, h.runCommand (h.integerToPacked r) r⟩
  | p2i r n => exact ⟨_, _, rfl, rfl, h.runCommand (h.packedToInteger n) r⟩
  | i2w r n => exact ⟨_, _, rfl, rfl, h.runCommand (h.integerToWords r) r⟩
  | w2i r n => exact ⟨_, _, rfl, rfl, h.runCommand (h.wordsToInteger n) r⟩
  | vw r n => exact ⟨_, _, rfl, rfl, h.runCommand (h.validateWords n) r⟩

end Sys2Proof.Machine
end

section
/-! STATUS under a CMD write that runs and under every other interaction (10_state.md R27–R30, 60_exceptions.md R110–R116). -/

namespace Sys2Proof.Machine

/-! ## The outcome of a command -/

/-- The outcome of a legal command by its own rule (R80, R81, R90–R92, R100). -/
def commandCode (i : Instr) (s : State) : ErrorCode :=
  match i with
  | .nop _ _ | .vw _ _ => .ok
  | .i2p r _ | .i2w r _ => if r = .inRange then .ok else .valueError
  | .p2i _ n => if n = 16 then .ok else .contractViolation
  | .w2i _ n => if wordsValid n s then .ok else .rangeError

/-- `ReportsCode`, and ERR is set exactly by a failure (R29, R111). -/
structure EndsCommand (s t : State) (e : ErrorCode) : Prop extends ReportsCode s t e where
  err_eq : t.err = (s.err || decide (e ≠ .ok))

theorem endsCommand_succeed {s u : State} (hf : u.fault = false) (hb : u.base = s.base) (he : u.err = s.err) :
    EndsCommand s (succeed u) .ok :=
  ⟨reportsCode_succeed hf hb, by simp [he]⟩

theorem endsCommand_fail {s : State} (hf : s.fault = false) {e : ErrorCode} (he : e ≠ .contractViolation)
    (hok : e ≠ .ok) : EndsCommand s (fail e s) e :=
  ⟨reportsCode_fail hf he, by simp [hok]⟩

theorem endsCommand_latchFault (s : State) : EndsCommand s (latchFault s) .contractViolation :=
  ⟨reportsCode_latchFault s, by simp⟩

/-- A legal command that runs ends with its own outcome. -/
theorem exec_endsCommand {i : Instr} {s t : State} (hf : s.fault = false) (hi : i.WellFormed)
    (h : exec i s = .next t) : EndsCommand s t (commandCode i s) := by
  have hok {u : State} (hu : u.fault = s.fault) (hb : u.base = s.base) (he : u.err = s.err) :
      EndsCommand s (succeed u) .ok := endsCommand_succeed (hu.trans hf) hb he
  rcases exec_cases i s t h with ⟨hf', -⟩ | ⟨-, hres, -⟩ | ⟨-, -, hrun⟩
  · simp [hf] at hf'
  · exact absurd hres hi
  · rcases hrun with ⟨-, -, rfl, rfl⟩ | ⟨-, rfl, rfl⟩ | ⟨r, _, rfl, hr, rfl⟩ | ⟨-, rfl, rfl⟩ |
      ⟨_, n, rfl, hn, rfl⟩ | ⟨-, rfl, rfl⟩ | ⟨r, _, rfl, hr, rfl⟩ | ⟨_, n, rfl, hv, rfl⟩ | ⟨_, n, rfl, hv, rfl⟩ |
      ⟨-, -, rfl, rfl⟩
    · exact hok rfl rfl rfl
    · exact hok rfl rfl rfl
    · rw [commandCode, if_neg hr]
      exact endsCommand_fail hf (by decide) (by decide)
    · exact hok rfl rfl rfl
    · rw [commandCode, if_neg hn]
      exact endsCommand_latchFault s
    · exact hok rfl rfl rfl
    · rw [commandCode, if_neg hr]
      exact endsCommand_fail hf (by decide) (by decide)
    · rw [commandCode, if_pos hv]
      exact hok rfl rfl rfl
    · rw [commandCode, if_neg hv]
      exact endsCommand_fail hf (by decide) (by decide)
    · exact hok rfl rfl rfl

/-- A command word reports the outcome of its command (R112). -/
theorem reportedCode_of_decodeWord {c : Word} {i : Instr} (h : decodeWord c = .ok i) (s : State) :
    reportedCode c s = commandCode i s := by
  obtain ⟨hlegal, hop, hrange, hcount⟩ := fields_of_decodeWord h
  have hvalid : (i.count ≠ 8#5 ∨ ∃ k : Fin 8, 0xFFFF < s.w[k].toNat) ↔ ¬wordsValid i.count s := by
    rw [wordsValid_iff, not_and_or, not_forall]
    simp only [not_le]
    rfl
  have htag : c.extractLsb' 4 2 ≠ 0 ↔ i.range ≠ .inRange := by
    rw [hrange, ne_eq, ne_eq, rangeOfBits_eq_inRange_iff]
  simp only [reportedCode, if_neg hlegal, hvalid, htag, ← hop, ← hcount]
  cases i with
  | w2i r n => simp [opcode, Instr.count, commandCode, -not_and]
  | nop | i2p | p2i | i2w | vw => simp [opcode, Instr.range, Instr.count, commandCode]

/-- A word that is no command reports ILLEGAL_COMMAND (R112). -/
theorem reportedCode_of_error {c : Word} (h : ∃ e, decodeWord c = .error e) (s : State) :
    reportedCode c s = .illegalCommand :=
  if_pos ((decodeWord_error_iff c).mp h)

/-- A CMD write that runs: the word is no command and fails, or it is one and runs (R63). -/
theorem step_of_running_command {s t : State} {c : Word} (hc : WritesCmd s c) (hf : s.fault = false)
    (h : step s = .next t) :
    (∃ e, decodeWord c = .error e) ∧ (∃ rest, t = respond .done (fail .illegalCommand { s with pending := rest })) ∨
    ∃ i rest u, decodeWord c = .ok i ∧ exec i { s with pending := rest } = .next u ∧ t = respond .done u := by
  obtain ⟨rest, hp⟩ := hc
  rw [step_of_command hp] at h
  rcases writeCmd_cases c { s with pending := rest } with ⟨hf', -⟩ | ⟨-, he, hw⟩ | ⟨-, i, hi, hw⟩
  · simp [hf] at hf'
  · rw [hw] at h
    cases h
    exact .inl ⟨he, rest, rfl⟩
  · obtain ⟨u, hu⟩ := exec_answers_next i { s with pending := rest }
    rw [hw, hu] at h
    cases h
    exact .inr ⟨i, rest, u, hi, hu, rfl⟩

/-- The popped list and the response are no registers. -/
theorem EndsCommand.of_delivered {s u : State} {e : ErrorCode} {rest : List HostEvent} {x : Response}
    (h : EndsCommand { s with pending := rest } u e) : EndsCommand s (respond x u) e :=
  ⟨⟨h.ecode_eq, h.fault_iff, h.base_eq⟩, h.err_eq⟩

/-- A CMD write that runs ends with the outcome that its word reports (R110, R112). -/
theorem step_endsCommand {s t : State} {c : Word} (hc : WritesCmd s c) (hf : s.fault = false)
    (h : step s = .next t) : EndsCommand s t (reportedCode c s) := by
  rcases step_of_running_command hc hf h with ⟨he, rest, rfl⟩ | ⟨i, rest, u, hi, hu, rfl⟩
  · rw [reportedCode_of_error he]
    have hfail := endsCommand_fail (s := { s with pending := rest }) hf (e := .illegalCommand) (by decide) (by decide)
    exact hfail.of_delivered
  · have hend := exec_endsCommand (s := { s with pending := rest }) hf (wellFormed_of_decodeWord hi) hu
    rw [reportedCode_of_decodeWord hi]
    exact hend.of_delivered

/-! ## What can change STATUS -/

/-- Reset clears FAULT (R130). -/
theorem fault_of_reset {s t : State} (hr : ResetsNext s) (h : step s = .next t) : t.fault = false := by
  rcases hr with hr | ⟨a, hr⟩ <;> obtain ⟨rest, hp⟩ := List.head?_eq_some_iff.mp hr <;>
    rw [step_of_pending hp] at h <;> cases h <;> rfl

/-- A CMD write while FAULT = 1 changes no register (R116). -/
theorem step_of_ignored_command {s t : State} {c : Word} (hc : WritesCmd s c) (hf : s.fault = true)
    (h : step s = .next t) : SameRegisters s t := by
  obtain ⟨rest, hp⟩ := hc
  have hw : writeCmd c { s with pending := rest } = .next { s with pending := rest } := if_pos hf
  rw [step_of_command hp, hw] at h
  cases h
  exact ⟨⟨rfl, rfl, rfl⟩, rfl, rfl, rfl, rfl⟩

/-- The step that delivers a word write of STATUS (R101). -/
theorem step_of_statusWrite {s : State} {v : Word} {rest : List HostEvent}
    (hp : s.pending = .transfer (regWrite s.base 0x04 v) :: rest) :
    step s = .next { s with pending := rest, err := s.err && !v.getLsbD 8, resp := .done } := by
  have hstep : step s = .next (respond .done (writeStatus v { s with pending := rest })) :=
    step_of_access (r := .status) hp
  have herr : (if v.getLsbD 8 then false else s.err) = (s.err && !v.getLsbD 8) := by
    cases v.getLsbD 8 <;> simp
  rw [hstep, writeStatus_eq, herr]
  rfl

/-- But for reset, STATUS changes only by a STATUS write, which touches ERR alone, and by a CMD write that runs. -/
theorem step_status_cases {s t : State} (h : step s = .next t) (hr : ¬ResetsNext s) :
    SameStatus s t ∨
    (∃ v rest, s.pending = .transfer (regWrite s.base 0x04 v) :: rest ∧
      t = { s with pending := rest, err := s.err && !v.getLsbD 8, resp := .done }) ∨
    (s.fault = false ∧ ∃ c, WritesCmd s c) := by
  rcases step_cases h with ⟨-, rfl⟩ | ⟨rest, hp, -⟩ | ⟨a, rest, hp, -⟩ | ⟨_, _, -, _, rfl⟩ | ⟨_, _, -, -, rfl⟩ |
    ⟨c, rest, hp, hf, -⟩ | ⟨c, rest, -, -, hp, hf, -⟩ | ⟨v, rest, hp, -⟩ | ⟨_, _, _, -, rfl⟩ |
    ⟨_, _, _, -, rfl⟩ | ⟨_, _, _, -, rfl⟩
  · exact .inl ⟨rfl, rfl, rfl, rfl⟩
  · exact absurd (.inl (by rw [hp]; rfl)) hr
  · exact absurd (.inr ⟨a, by rw [hp]; rfl⟩) hr
  · exact .inl ⟨rfl, rfl, rfl, rfl⟩
  · exact .inl ⟨rfl, rfl, rfl, rfl⟩
  · exact .inr (.inr ⟨hf, c, rest, hp⟩)
  · exact .inr (.inr ⟨hf, c, rest, hp⟩)
  · cases (step_of_statusWrite hp).symm.trans h
    exact .inr (.inl ⟨v, rest, hp, rfl⟩)
  · exact .inl ⟨rfl, rfl, rfl, rfl⟩
  · exact .inl ⟨rfl, rfl, rfl, rfl⟩
  · exact .inl ⟨rfl, rfl, rfl, rfl⟩

/-! ## The four fields (R27–R30) -/

/-- Settles O27: STATUS changes by `step_status_cases`, and of the commands only VW changes VALID (O24). -/
theorem onlyValidateWritesValid : Obligations.OnlyValidateWritesValid := by
  intro s t h hr
  refine ⟨fun hne => ?_, fun c r n hc hf hd => ?_⟩
  · rcases step_status_cases h hr with ⟨hvalid, -⟩ | ⟨v, rest, -, rfl⟩ | ⟨hf, c, hc⟩
    · exact absurd hvalid.symm hne
    · exact absurd rfl hne
    · rcases step_of_running_command hc hf h with ⟨-, rest, rfl⟩ | ⟨i, rest, u, hi, hu, rfl⟩
      · exact absurd rfl hne
      · obtain ⟨-, -, -, hvw, -⟩ := commandFrame i _ u hu
        exact ⟨c, i.range, i.count, hc, hf, hi.trans (congrArg _ (hvw hne))⟩
  · rcases step_of_running_command hc hf h with ⟨⟨e, he⟩, -⟩ | ⟨i, rest, u, hi, hu, rfl⟩
    · cases hd.symm.trans he
    · cases hd.symm.trans hi
      cases (exec_vw_of_ready (s := { s with pending := rest }) hf (wellFormed_of_decodeWord hd) n).symm.trans hu
      exact decide_eq_true_iff.trans (wordsValid_iff n _)

/-- ECODE = 0 is success (R110). -/
theorem errorBits_eq_zero_iff (e : ErrorCode) : errorBits e = 0 ↔ e = .ok := by
  cases e <;> decide

/-- A command that reports 0 leaves ERR as it was (R29). -/
theorem EndsCommand.err_of_ecode_eq_zero {s t : State} {e : ErrorCode} (h : EndsCommand s t e) (h0 : t.ecode = 0) :
    t.err = s.err := by
  rw [h.ecode_eq, errorBits_eq_zero_iff] at h0
  simp [h.err_eq, h0]

/-- A command that reports another code sets ERR (R29, R111). -/
theorem EndsCommand.err_of_ecode_ne_zero {s t : State} {e : ErrorCode} (h : EndsCommand s t e) (h0 : t.ecode ≠ 0) :
    t.err = true := by
  rw [h.ecode_eq, ne_eq, errorBits_eq_zero_iff] at h0
  simp [h.err_eq, h0]

/-- Settles O28: a CMD write that runs ends with the outcome of its word, and nothing else changes ECODE. -/
theorem ecodeIsTheLastCommandsOutcome : Obligations.EcodeIsTheLastCommandsOutcome := by
  intro s t h hr
  refine ⟨fun hne => ?_, fun c hc hf => ?_, fun hfault => ?_⟩
  · rcases step_status_cases h hr with ⟨-, hecode, -⟩ | ⟨v, rest, -, rfl⟩ | hcmd
    · exact absurd hecode.symm hne
    · exact absurd rfl hne
    · exact hcmd
  · have hend := step_endsCommand hc hf h
    refine ⟨hend.ecode_eq, ?_, hend.err_of_ecode_eq_zero, hend.err_of_ecode_ne_zero⟩
    rw [hend.ecode_eq]
    cases reportedCode c s <;> decide
  · rcases step_status_cases h hr with ⟨-, hecode, -⟩ | ⟨v, rest, -, rfl⟩ | ⟨hf, -⟩
    · exact hecode.symm
    · rfl
    · simp [hfault] at hf

/-- Settles O29: a STATUS write can only clear ERR and a command can only set it. -/
theorem errIsSticky : Obligations.ErrIsSticky := by
  intro s t h hr
  refine ⟨fun hs ht => ?_, fun hs ht => ?_, fun c hc hf h0 => ?_, fun v rest hp => ?_⟩
  · rcases step_status_cases h hr with ⟨-, -, herr, -⟩ | ⟨v, rest, hp, rfl⟩ | ⟨hf, c, hc⟩
    · simp [hs, ht] at herr
    · exact ⟨v, rest, hp, by simpa [hs] using ht⟩
    · simp [(step_endsCommand hc hf h).err_eq, hs] at ht
  · rcases step_status_cases h hr with ⟨-, -, herr, -⟩ | ⟨v, rest, -, rfl⟩ | ⟨hf, c, hc⟩
    · simp [hs, ht] at herr
    · simp [hs] at ht
    · refine ⟨hf, fun h0 => ?_, c, hc⟩
      simp [(step_endsCommand hc hf h).err_of_ecode_eq_zero h0, hs] at ht
  · exact (step_endsCommand hc hf h).err_of_ecode_ne_zero h0
  · cases (step_of_statusWrite hp).symm.trans h
    rfl

/-- Settles O30: of the commands only a P2I whose COUNT is not 16 changes FAULT (O24), and it ends with CONTRACT_VIOLATION. -/
theorem faultLatchIsSetByP2iAndClearedByReset : Obligations.FaultLatchIsSetByP2iAndClearedByReset := by
  intro s t h
  have hviolation {c : Word} {r : RangeTag} {n : BitVec 5} (hc : WritesCmd s c) (hf : s.fault = false)
      (hd : decodeWord c = .ok (.p2i r n)) (hn : n ≠ 16) : t.fault = true ∧ t.ecode = 4 ∧ t.err = true := by
    have hcode : reportedCode c s = .contractViolation := (reportedCode_of_decodeWord hd s).trans (if_neg hn)
    have hend := step_endsCommand hc hf h
    rw [hcode] at hend
    exact ⟨hend.fault_iff.mpr rfl, hend.ecode_eq, by simp [hend.err_eq]⟩
  refine ⟨fun hs ht => ?_, fun c r n hc hf hd hn => hviolation hc hf hd hn, fun hs ht => ?_,
    fun hr => fault_of_reset hr h, fun hs c hc => step_of_ignored_command hc hs h⟩
  · have hr : ¬ResetsNext s := fun hr => by simp [fault_of_reset hr h] at ht
    rcases step_status_cases h hr with ⟨-, -, -, hfault⟩ | ⟨v, rest, -, rfl⟩ | ⟨hf, c, hc⟩
    · simp [hs, ht] at hfault
    · simp [hs] at ht
    · rcases step_of_running_command hc hf h with ⟨-, rest, rfl⟩ | ⟨i, rest, u, hi, hu, rfl⟩
      · simp [hs] at ht
      · obtain ⟨-, -, -, -, hp2i, -⟩ := commandFrame i _ u hu
        have hchanged : u.fault ≠ s.fault := by simpa [hs] using ht
        obtain ⟨heq, hn, -⟩ := hp2i hchanged
        have hd := hi.trans (congrArg _ heq)
        obtain ⟨-, hecode, herr⟩ := hviolation hc hf hd hn
        exact ⟨hecode, herr, c, i.range, i.count, hc, hd, hn⟩
  · by_contra hr
    rcases step_status_cases h hr with ⟨-, -, -, hfault⟩ | ⟨v, rest, -, rfl⟩ | ⟨hf, -⟩
    · simp [hs, ht] at hfault
    · simp [hs] at ht
    · simp [hs] at hf

end Sys2Proof.Machine
end

section
/-! The registers as the bus reads and writes them (10_state.md R26, R31, R32, 20_memory.md R47), and after reset (10_state.md R35). -/

namespace Sys2Proof.Machine

/-! ## STATUS and CONFIG -/

/-- Settles O33: the concatenation of STATUS as a sum. -/
theorem statusReadsItsFields : Obligations.StatusReadsItsFields := by
  intro s
  simp only [readReg, statusWord, toNat_concat, BitVec.toNat_ofBool, BitVec.toNat_ofNat]
  omega

/-- STATUS has no bits besides those of its four fields (R31). -/
theorem statusWord_getLsbD_reserved (s : State) {b : Nat} (hb : (1 ≤ b ∧ b ≤ 3) ∨ 10 ≤ b) :
    (statusWord s).getLsbD b = false := by
  simp only [statusWord, BitVec.getLsbD_append]
  rcases hb with ⟨h1, h3⟩ | h10
  · have h1' : ¬b < 1 := by omega
    have h3' : b - 1 < 3 := by omega
    simp [h1', h3']
  · have hsub : ¬b < 1 ∧ ¬b - 1 < 3 ∧ ¬b - 1 - 3 < 4 ∧ ¬b - 1 - 3 - 4 < 1 ∧ ¬b - 1 - 3 - 4 - 1 < 1 := by omega
    simp only [hsub, if_false, BitVec.getLsbD_zero]

/-- Settles O34: every STATUS word has zeros there. -/
theorem reservedStatusBitsReadZero : Obligations.ReservedStatusBitsReadZero := fun s _ hb =>
  ⟨statusWord_getLsbD_reserved s hb, fun v => statusWord_getLsbD_reserved (writeStatus v s) hb⟩

/-- Settles O35: CONFIG is a constant of the model, and a write of it is an access that changes no register. -/
theorem configIsConstant : Obligations.ConfigIsConstant :=
  ⟨fun _ => rfl, by decide, by decide, by decide, by decide, rfl, rfl, fun _ _ _ hp => step_of_access (r := .config) hp⟩

/-! ## Writes of INT, PK and W (R47) -/

theorem readReg_writeInt (r : Reg) (i : Fin 4) (v : Word) (s : State) :
    readReg r (writeInt i v s) = if r = .int i then v else readReg r s := by
  cases r with
  | int j => simp [readReg, Vector.getElem_set, Fin.ext_iff, eq_comm]
  | cmd | status | config | pk _ | w _ => rfl

theorem readReg_writePk (r : Reg) (j : Fin 4) (v : Word) (s : State) :
    readReg r (writePk j v s) = if r = .pk j then v else readReg r s := by
  cases r with
  | pk j' => simp [readReg, Vector.getElem_set, Fin.ext_iff, eq_comm]
  | cmd | status | config | int _ | w _ => rfl

theorem readReg_writeW (r : Reg) (k : Fin 8) (v : Word) (s : State) :
    readReg r (writeW k v s) = if r = .w k then v else readReg r s := by
  cases r with
  | w k' => simp [readReg, Vector.getElem_set, Fin.ext_iff, eq_comm]
  | cmd | status | config | int _ | pk _ => rfl

/-- RegWrite of a data register is read back there and leaves every other register as it was (R24, R47). -/
theorem writeReg_data {r : Reg} (hcmd : r ≠ .cmd) (hstatus : r ≠ .status) (hconfig : r ≠ .config) (v : Word) (s : State) :
    ∃ t, writeReg r v s = .next t ∧ t.pending = s.pending ∧
      ∀ r', readReg r' t = if r' = r then v else readReg r' s := by
  cases r with
  | cmd => contradiction
  | status => contradiction
  | config => contradiction
  | int i => exact ⟨_, rfl, rfl, fun r' => readReg_writeInt r' i v s⟩
  | pk j => exact ⟨_, rfl, rfl, fun r' => readReg_writePk r' j v s⟩
  | w k => exact ⟨_, rfl, rfl, fun r' => readReg_writeW r' k v s⟩

/-- What the host still has to do and what it got back show in no register. -/
theorem readReg_delivered (r : Reg) (s : State) (rest : List HostEvent) (x : Response) :
    readReg r { s with pending := rest, resp := x } = readReg r s := by
  cases r <;> rfl

/-- Settles O39: the step is the accepted write of the register. -/
theorem dataWriteIsReadBack : Obligations.DataWriteIsReadBack := by
  intro s r v rest hcmd hstatus hconfig hp
  obtain ⟨u, hu, hpending, hread⟩ := writeReg_data hcmd hstatus hconfig v { s with pending := rest }
  refine ⟨respond .done u, ?_, hpending, rfl, ?_, fun r' hne => ?_⟩
  · rw [step_of_access hp, accessReg, hu]
    rfl
  · exact (readReg_delivered r u u.pending .done).trans ((hread r).trans (if_pos rfl))
  · calc readReg r' (respond .done u)
        = readReg r' u := readReg_delivered r' u u.pending .done
      _ = readReg r' { s with pending := rest } := (hread r').trans (if_neg hne)
      _ = readReg r' s := readReg_delivered r' s rest s.resp

/-! ## Reset -/

/-- Settles O43: no register of `State.resetAt` depends on BASE, so the block placed at 0 shows IntValue() and STATUS. -/
theorem resetValues : Obligations.ResetValues := by
  refine ⟨fun b i j k => ⟨?_, ?_, ?_, ?_, rfl, rfl, rfl, rfl, ?_, rfl, rfl⟩, 0, rfl⟩
  · exact Vector.getElem_replicate i.isLt
  · have hplaced : intValue (State.resetAt b) = intValue State.reset := rfl
    exact hplaced.trans (by decide)
  · exact Vector.getElem_replicate j.isLt
  · exact Vector.getElem_replicate k.isLt
  · have hplaced : statusWord (State.resetAt b) = statusWord State.reset := rfl
    exact hplaced.trans (by decide)

/-- The state after reset is legal wherever R7 lets the block stand. -/
theorem legalState_resetAt {b : Nat} (hb : b % 256 = 0) : LegalState (State.resetAt b) :=
  .of_code .ok rfl (by simp) hb

/-- Settles O45: `State.reset` is the block placed at 0. -/
theorem resetStateIsLegal : Obligations.ResetStateIsLegal :=
  ⟨legalState_resetAt (Nat.zero_mod 256), fun _ hb => legalState_resetAt hb⟩

end Sys2Proof.Machine
end

section
/-! The register map and the transfers that reach it or do not (20_memory.md R41–R46), and what one step delivers (20_memory.md
R50, R52, 30_encoding.md R63). -/

namespace Sys2Proof.Machine

/-! ## One interaction a step (R52, R132) -/

/-- A step takes the oldest interaction off the list and adds none, and it leaves the block where it is placed (R7, R52). -/
theorem step_pending_base {s t : State} (h : step s = .next t) : t.pending = s.pending.tail ∧ t.base = s.base := by
  rcases step_cases h with ⟨hp, rfl⟩ | ⟨_, hp, rfl⟩ | ⟨_, _, hp, rfl⟩ | ⟨_, _, hp, _, rfl⟩ | ⟨_, _, hp, -, rfl⟩ |
    ⟨_, _, hp, -, -, rfl⟩ | ⟨_, rest, i, u, hp, -, -, hu, rfl⟩ | ⟨_, _, hp, rfl⟩ | ⟨_, _, _, hp, rfl⟩ |
    ⟨_, _, _, hp, rfl⟩ | ⟨_, _, _, hp, rfl⟩
  · simp [hp]
  · simp [hp]
  · simp [hp]
  · simp [hp]
  · simp [hp]
  · simp [hp]
  · obtain ⟨-, -, -, -, -, -, hbase, hpending, -, -⟩ := commandFrame i { s with pending := rest } u hu
    simp [hp, hbase, hpending]
  · simp [hp]
  · simp [hp]
  · simp [hp]
  · simp [hp]

/-- Settles O10: the delivery is the step itself (`step_of_pending`), the list and BASE are `step_pending_base`. -/
theorem stepDeliversTheOldestInteraction : Obligations.StepDeliversTheOldestInteraction := by
  intro s t h
  obtain ⟨hpending, hbase⟩ := step_pending_base h
  refine ⟨fun e rest hp => (step_of_pending hp).symm.trans h, hpending, hbase, fun hidle => ?_⟩
  cases (step_of_idle hidle).symm.trans h
  rfl

/-! ## The register map (R42, R43) -/

theorem regAt_eq_some_iff (off : Nat) (r : Reg) : regAt off = some r ↔ off = regOffset r :=
  ⟨regOffset_of_regAt, fun h => h ▸ regAt_regOffset r⟩

/-- The mapped offsets: the multiples of 4 below 0x50 but for 0x0C (R42). -/
theorem exists_regOffset_iff (off : Nat) : (∃ r, off = regOffset r) ↔ off % 4 = 0 ∧ off ≠ 0x0C ∧ off < 0x50 := by
  constructor
  · rintro ⟨r, rfl⟩
    cases r with
    | cmd | status | config => decide
    | int _ | pk _ | w _ => simp only [regOffset]; omega
  · rintro ⟨hmod, hgap, hlt⟩
    by_cases hctrl : off < 0x10
    · obtain rfl | rfl | rfl : off = 0x00 ∨ off = 0x04 ∨ off = 0x08 := by omega
      · exact ⟨.cmd, rfl⟩
      · exact ⟨.status, rfl⟩
      · exact ⟨.config, rfl⟩
    by_cases hint : off < 0x20
    · exact ⟨.int ⟨(off - 0x10) / 4, by omega⟩, by simp only [regOffset]; omega⟩
    by_cases hpk : off < 0x30
    · exact ⟨.pk ⟨(off - 0x20) / 4, by omega⟩, by simp only [regOffset]; omega⟩
    · exact ⟨.w ⟨(off - 0x30) / 4, by omega⟩, by simp only [regOffset]; omega⟩

/-- The unmapped offsets (R43). -/
theorem regAt_eq_none_iff (off : Nat) : regAt off = none ↔ off % 4 ≠ 0 ∨ off = 0x0C ∨ 0x50 ≤ off := by
  have hmapped := exists_regOffset_iff off
  simp only [← regAt_eq_some_iff, ← Option.isSome_iff_exists] at hmapped
  rw [← Option.not_isSome_iff_eq_none, hmapped]
  omega

/-- Settles O36: the map inverts `regOffset`, whose values are the mapped offsets. -/
theorem registerMapIsExact : Obligations.RegisterMapIsExact :=
  ⟨regAt_eq_some_iff, fun off _ => regAt_eq_none_iff off⟩

/-! ## Transfers that reach no register (R41, R43, R45, R117) -/

/-- The transfers that get `raise BusError` (R43, R45). -/
theorem acceptedReg_eq_none_iff (off size : Nat) :
    acceptedReg off size = none ↔ size ≠ 4 ∨ off % 4 ≠ 0 ∨ off = 0x0C ∨ 0x50 ≤ off := by
  have hmap := regAt_eq_none_iff off
  unfold acceptedReg
  split
  · rw [hmap]
    omega
  · simp only [true_iff]
    omega

/-- Settles O37: no register accepts such a transfer, so it is only answered. -/
theorem rejectedTransferHasNoEffect : Obligations.RejectedTransferHasNoEffect := by
  intro s off size a rest hoff hp hbad
  have hperform := performTransfer_offset hoff size a { s with pending := rest }
  rw [(acceptedReg_eq_none_iff off size).mpr hbad] at hperform
  exact (step_of_pending hp).trans hperform

/-- Settles O41: such an address has no offset in the window. -/
theorem accessOutsideTheWindowIsIgnored : Obligations.AccessOutsideTheWindowIsIgnored := by
  intro s t rest hp hout
  rw [step_of_pending hp, deliver, performTransfer, windowOffset_eq_none hout]
  rfl

/-! ## Reads (R46) -/

/-- Settles O38: the step is the accepted read of the register. -/
theorem readReturnsTheRegister : Obligations.ReadReturnsTheRegister := by
  intro s r rest hp
  have hstep : step s = .next { s with pending := rest, resp := .data (readReg r s) } := by
    rw [step_of_access hp, accessReg, readReg_delivered r s rest s.resp]
    rfl
  rw [hstep]
  cases r <;> rfl

/-! ## The CMD write of a command word (R50, R60, R63) -/

/-- Every command is ignored while FAULT is 1 (R116). -/
theorem exec_of_faulted {s : State} (hf : s.fault = true) (i : Instr) : exec i s = .next s := by
  cases i <;> exact congrArg Host.Outcome.next (runCommand_of_faulted hf _ _)

/-- The CMD write of a command word is that command, in a faulted state too: there both do nothing (R63, R116). -/
theorem writeCmd_of_decodeWord {c : Word} {i : Instr} (h : decodeWord c = .ok i) (s : State) :
    writeCmd c s = exec i s := by
  rcases writeCmd_cases c s with ⟨hf, hw⟩ | ⟨-, ⟨e, he⟩, -⟩ | ⟨-, j, hj, hw⟩
  · rw [hw, exec_of_faulted hf]
  · cases he.symm.trans h
  · cases hj.symm.trans h
    exact hw

/-- Settles O6: the step is the CMD write of the word. -/
theorem stepRunsTheDecodedCommand : Obligations.StepRunsTheDecodedCommand := by
  intro s c i rest hp hc
  rw [step_of_command hp, writeCmd_of_decodeWord hc]

/-- A table word's command is the decoder's reading of the word's low bits (R60). -/
theorem decodeWord_of_decodeTableWord {nbits w : Nat} {i : Instr} (h : decodeTableWord nbits w = some i) :
    decodeWord (BitVec.ofNat 32 (w % 2 ^ nbits)) = .ok i := by
  unfold decodeTableWord at h
  split at h
  · cases hd : decodeWord (BitVec.ofNat 32 (w % 2 ^ nbits)) with
    | ok j => rw [hd] at h; cases h; rfl
    | error e => rw [hd] at h; cases h
  · cases h

/-- Settles O7: `withFetchWord` puts the CMD write of the word before what was pending in `s`. -/
theorem placedTableWordIsRunNext : Obligations.PlacedTableWordIsRunNext := fun s nbits w i h =>
  stepRunsTheDecodedCommand (s.withFetchWord nbits w) _ i s.pending rfl (decodeWord_of_decodeTableWord h)

end Sys2Proof.Machine
end

section
/-! The command word and the command it stands for (30_encoding.md R61–R71): encoding and decoding are inverse, and a word
that is no command is illegal by its own bits. -/

namespace Sys2Proof

/-! ## The fields of a word (R61) -/

/-- A word is the concatenation of its five fields. -/
theorem word_eq_concat_fields (c : Word) :
    reservedHigh c ++ countField c ++ reservedLow c ++ rangeField c ++ opField c = c := by
  apply BitVec.eq_of_toNat_eq
  simp only [toNat_concat, reservedHigh, countField, reservedLow, rangeField, opField, toNat_field]
  have := c.isLt
  omega

/-- The fields of a concatenation are its parts. -/
theorem fields_of_concat (high : BitVec 19) (n : BitVec 5) (low r : BitVec 2) (op : BitVec 4) {c : Word}
    (hc : high ++ n ++ low ++ r ++ op = c) :
    reservedHigh c = high ∧ countField c = n ∧ reservedLow c = low ∧ rangeField c = r ∧ opField c = op := by
  subst hc
  simp only [← BitVec.toNat_inj, reservedHigh, countField, reservedLow, rangeField, opField, toNat_field, toNat_concat]
  have := high.isLt
  have := n.isLt
  have := low.isLt
  have := r.isLt
  have := op.isLt
  omega

/-- The encoding of a command holds the command's fields, and zeros in the reserved bits. -/
theorem fields_of_encode (i : Instr) :
    reservedHigh (encode i) = 0 ∧ countField (encode i) = i.count ∧ reservedLow (encode i) = 0 ∧
      rangeField (encode i) = rangeBits i.range ∧ opField (encode i) = opcode i :=
  fields_of_concat 0 i.count 0 (rangeBits i.range) (opcode i) rfl

/-! ## Decoding and encoding are inverse (R71) -/

/-- The decoder reads every RANGE as the encoder writes it (R66). -/
theorem rangeOfBits_rangeBits (r : RangeTag) : rangeOfBits (rangeBits r) = r := by
  cases r <;> rfl

theorem rangeBits_rangeOfBits (b : BitVec 2) : rangeBits (rangeOfBits b) = b := by
  revert b; decide

/-- The opcode map gives a command back from its own three fields (R62). -/
theorem commandOf_fields (i : Instr) : commandOf (opcode i) i.range i.count = .ok i := by
  cases i <;> rfl

theorem rangeBits_ne_of_wellFormed {i : Instr} (h : i.WellFormed) : rangeBits i.range ≠ 0b11#2 := fun hbits =>
  h ((rangeOfBits_rangeBits i.range).symm.trans ((rangeOfBits_eq_reserved_iff _).mpr hbits))

/-- Settles O1: each field of the encoding is the command's own, and the reserved ones are zero. -/
theorem decodeOfEncodeIsTheCommand : Obligations.DecodeOfEncodeIsTheCommand := by
  intro i hi
  obtain ⟨hhigh, hcount, hlow, hrange, hop⟩ := fields_of_encode i
  have hbits : ¬(reservedHigh (encode i) ≠ 0 ∨ reservedLow (encode i) ≠ 0) := by simp [hhigh, hlow]
  rw [decodeWord, if_neg hbits, hrange, if_neg (rangeBits_ne_of_wellFormed hi), hop, hcount, rangeOfBits_rangeBits,
    commandOf_fields]

/-- A word that decodes to a command is the command's encoding. -/
theorem encode_of_decodeWord {c : Word} {i : Instr} (h : decodeWord c = .ok i) : encode i = c := by
  obtain ⟨hlegal, hop, hrange, hcount⟩ := fields_of_decodeWord h
  obtain ⟨hhigh, hrest⟩ := not_or.mp hlegal
  obtain ⟨hlow, -⟩ := not_or.mp hrest
  have hhigh : reservedHigh c = 0#19 := not_not.mp hhigh
  have hlow : reservedLow c = 0#2 := not_not.mp hlow
  calc encode i
      = 0#19 ++ countField c ++ 0#2 ++ rangeField c ++ opField c := by
        rw [encode, hop, hrange, hcount, rangeBits_rangeOfBits]
        rfl
    _ = reservedHigh c ++ countField c ++ reservedLow c ++ rangeField c ++ opField c := by rw [hhigh, hlow]
    _ = c := word_eq_concat_fields c

/-- Settles O2: the decoder leaves no bit of an accepted word unread. -/
theorem encodeOfDecodeIsTheWord : Obligations.EncodeOfDecodeIsTheWord := fun _ _ h =>
  ⟨wellFormed_of_decodeWord h, encode_of_decodeWord h⟩

theorem decodeWord_eq_ok_iff (c : Word) (i : Instr) : decodeWord c = .ok i ↔ i.WellFormed ∧ encode i = c :=
  ⟨encodeOfDecodeIsTheWord c i, fun ⟨hi, hc⟩ => hc ▸ decodeOfEncodeIsTheCommand i hi⟩

/-- Settles O3: each check of `decodeWord` refuses one kind of illegal word (`decodeWord_error_iff`). -/
theorem decodeRejectsExactlyIllegalWords : Obligations.DecodeRejectsExactlyIllegalWords := decodeWord_error_iff

/-- Settles O5: each word is the encoding of its command. -/
theorem decodesWordsWrittenOut : Obligations.DecodesWordsWrittenOut :=
  ⟨decodeOfEncodeIsTheCommand (.nop .below 31) (by decide), decodeOfEncodeIsTheCommand (.i2p .above 0) (by decide),
    decodeOfEncodeIsTheCommand (.p2i .inRange 16) (by decide), decodeOfEncodeIsTheCommand (.i2w .inRange 0) (by decide),
    decodeOfEncodeIsTheCommand (.w2i .inRange 8) (by decide), decodeOfEncodeIsTheCommand (.vw .inRange 8) (by decide)⟩

end Sys2Proof
end

section
/-! The commands by mnemonic, RANGE and COUNT: their number (30_encoding.md R70), and the ones that the assembler
makes (30_encoding.md R72). -/

namespace Sys2Proof.Machine

/-! ## A command is its mnemonic with two fields (R62) -/

/-- The mnemonic of a command. -/
def mnemonicOf : Instr → Mnemonic
  | .nop _ _ => .nop
  | .i2p _ _ => .i2p
  | .p2i _ _ => .p2i
  | .i2w _ _ => .i2w
  | .w2i _ _ => .w2i
  | .vw _ _ => .vw

@[simp] theorem range_mnemonicCommand (m : Mnemonic) (r : RangeTag) (n : BitVec 5) :
    (mnemonicCommand m r n).range = r := by
  cases m <;> rfl

@[simp] theorem count_mnemonicCommand (m : Mnemonic) (r : RangeTag) (n : BitVec 5) :
    (mnemonicCommand m r n).count = n := by
  cases m <;> rfl

@[simp] theorem mnemonicOf_mnemonicCommand (m : Mnemonic) (r : RangeTag) (n : BitVec 5) :
    mnemonicOf (mnemonicCommand m r n) = m := by
  cases m <;> rfl

theorem mnemonicCommand_mnemonicOf (i : Instr) : mnemonicCommand (mnemonicOf i) i.range i.count = i := by
  cases i <;> rfl

/-! ## The legal commands (R70) -/

/-- The six commands of the table. -/
def mnemonics : List Mnemonic := [.nop, .i2p, .p2i, .i2w, .w2i, .vw]

/-- The three legal values of RANGE. -/
def legalTags : List RangeTag := [.inRange, .above, .below]

/-- The 32 values of COUNT. -/
def counts : List (BitVec 5) := (List.finRange 32).map BitVec.ofFin

/-- Every choice of a command, a legal RANGE and a COUNT. -/
def legalCommands : List Instr :=
  (mnemonics ×ˢ legalTags ×ˢ counts).map fun (m, r, n) => mnemonicCommand m r n

theorem mem_mnemonics (m : Mnemonic) : m ∈ mnemonics := by
  cases m <;> decide

theorem mem_legalTags_iff (r : RangeTag) : r ∈ legalTags ↔ r ≠ .reserved := by
  cases r <;> decide

theorem mem_counts (n : BitVec 5) : n ∈ counts :=
  List.mem_map.mpr ⟨n.toFin, List.mem_finRange _, rfl⟩

theorem nodup_counts : counts.Nodup :=
  (List.nodup_finRange 32).map fun _ _ h => congrArg BitVec.toFin h

theorem length_legalCommands : legalCommands.length = 576 := by
  simp [legalCommands, mnemonics, legalTags, counts]

theorem nodup_legalCommands : legalCommands.Nodup := by
  have hchoices : (mnemonics ×ˢ legalTags ×ˢ counts).Nodup :=
    .product (by decide) (.product (by decide) nodup_counts)
  refine hchoices.map (Function.LeftInverse.injective (g := fun i => (mnemonicOf i, i.range, i.count)) ?_)
  rintro ⟨m, r, n⟩
  simp

theorem mem_legalCommands_iff (i : Instr) : i ∈ legalCommands ↔ i.WellFormed := by
  rw [Instr.WellFormed, ← mem_legalTags_iff, legalCommands, List.mem_map]
  constructor
  · rintro ⟨⟨m, r, n⟩, hmem, rfl⟩
    obtain ⟨-, hfields⟩ := List.pair_mem_product.mp hmem
    simpa using (List.pair_mem_product.mp hfields).1
  · intro hr
    exact ⟨(mnemonicOf i, i.range, i.count), List.pair_mem_product.mpr
      ⟨mem_mnemonics _, List.pair_mem_product.mpr ⟨hr, mem_counts _⟩⟩, mnemonicCommand_mnemonicOf i⟩

/-- Settles O4: the words of the legal commands, which `encode` keeps apart. -/
theorem exactlyFiveHundredSeventySixLegalWords : Obligations.ExactlyFiveHundredSeventySixLegalWords := by
  refine ⟨legalCommands.map encode, nodup_legalCommands.map_on fun i hi j hj h => ?_,
    (List.length_map _).trans length_legalCommands, fun c => ?_⟩
  · have hdecode := decodeOfEncodeIsTheCommand j ((mem_legalCommands_iff j).mp hj)
    rw [← h, decodeOfEncodeIsTheCommand i ((mem_legalCommands_iff i).mp hi)] at hdecode
    exact Except.ok.inj hdecode
  · simp only [List.mem_map, mem_legalCommands_iff, decodeWord_eq_ok_iff]

/-! ## The assembler (R72) -/

theorem assembleCommand_eq_none_iff (m : Mnemonic) (range count : Option Nat) :
    assembleCommand m range count = none ↔ 3 ≤ range.getD 0 ∨ 32 ≤ count.getD (defaultCount m) := by
  simp only [assembleCommand, ite_eq_right_iff, reduceCtorEq, imp_false]
  omega

/-- The numbers below 3 are the legal values of RANGE (R66, R72). -/
theorem rangeOfBits_ofNat_ne_reserved {r : Nat} (h : r < 3) : rangeOfBits (BitVec.ofNat 2 r) ≠ .reserved := by
  match r, h with
  | 0, _ | 1, _ | 2, _ => decide

/-- What the assembler makes: the line's mnemonic with some COUNT and a legal RANGE. -/
theorem of_assembleCommand {m : Mnemonic} {range count : Option Nat} {i : Instr}
    (h : assembleCommand m range count = some i) : ∃ r n, i = mnemonicCommand m r n ∧ r ≠ .reserved := by
  obtain ⟨⟨hrange, -⟩, hi⟩ := Option.ite_none_right_eq_some.mp h
  refine ⟨_, _, (Option.some.inj hi).symm, ?_⟩
  split
  · exact rangeOfBits_ofNat_ne_reserved hrange
  · decide

/-- Settles O52: the assembled command is legal, so O1 decodes its word. -/
theorem assemblerEmitsLegalWords : Obligations.AssemblerEmitsLegalWords := by
  refine fun m range count => ⟨assembleCommand_eq_none_iff m range count, fun i h => ?_⟩
  obtain ⟨r, n, rfl, hr⟩ := of_assembleCommand h
  exact ⟨by simp, decodeOfEncodeIsTheCommand _ (by simpa using hr)⟩

end Sys2Proof.Machine
end

section
/-! Commands that have no result: an illegal word, an operand out of range, a faulted state (30_encoding.md R63–R66,
60_exceptions.md R116). -/

namespace Sys2Proof.Machine

/-- A CMD write of an illegal word fails with ILLEGAL_COMMAND (R63). -/
theorem writeCmd_of_illegalWord {c : Word} {s : State} (hf : s.fault = false) (hc : IllegalWord c) :
    writeCmd c s = .next (fail .illegalCommand s) := by
  obtain ⟨e, he⟩ := (decodeWord_error_iff c).mpr hc
  simp [writeCmd, hf, he]

/-- Settles O8: the step is the CMD write of the word. -/
theorem illegalWordFailsTheCmdWrite : Obligations.IllegalWordFailsTheCmdWrite := by
  intro s c rest hp hf hc
  have hwrite : writeCmd c { s with pending := rest } = .next (fail .illegalCommand { s with pending := rest }) :=
    writeCmd_of_illegalWord hf hc
  rw [step_of_command hp, hwrite]
  rfl

/-- A command whose body does not depend on the integer does not either. -/
theorem runCommand_setInt {range : RangeTag} {body : State → State} {s : State} {v : Address}
    (hbody : body (setInt v s) = setInt v (body s)) :
    runCommand range body (setInt v s) = setInt v (runCommand range body s) := by
  rcases runCommand_cases range body s with ⟨hf, h⟩ | ⟨hf, rfl, h⟩ | ⟨hf, hr, h⟩ <;> rw [h]
  · exact runCommand_of_faulted ((setInt_fault v s).trans hf) range body
  · exact runCommand_of_reserved ((setInt_fault v s).trans hf) body
  · exact (runCommand_of_ready ((setInt_fault v s).trans hf) hr body).trans hbody

section
variable {r : RangeTag} (hr : r ≠ .inRange) (s : State)
include hr

theorem integerToPacked_of_outOfRange : integerToPacked r s = fail .valueError s :=
  ((integerToPacked_cases r s).resolve_left fun h => hr h.1).2

theorem integerToWords_of_outOfRange : integerToWords r s = fail .valueError s :=
  ((integerToWords_cases r s).resolve_left fun h => hr h.1).2

end

/-- Settles O26: the body of either command is then a failure, which reads no operand. -/
theorem outOfRangeTagIgnoresTheInteger : Obligations.OutOfRangeTagIgnoresTheInteger := by
  intro s v r c htag
  have hr : r ≠ .inRange := by rcases htag with rfl | rfl <;> decide
  refine ⟨_, _, _, _, rfl, rfl, runCommand_setInt ?_, rfl, rfl, runCommand_setInt ?_⟩
  · simp only [integerToPacked_of_outOfRange hr]
    rfl
  · simp only [integerToWords_of_outOfRange hr]
    rfl

/-- Settles O32: every arm of `exec` is a `runCommand`, which checks FAULT first (`exec_of_faulted`). -/
theorem faultedStateRunsNoCommand : Obligations.FaultedStateRunsNoCommand := fun i _ hf => exec_of_faulted hf i

end Sys2Proof.Machine
end

section
/-! I2P and P2I by form, result and frame, and that they are inverse (40_packed.md R80–R82). -/

namespace Sys2Proof.Machine

/-! ## INT0..INT3 and PK0..PK3 hold the same four groups in opposite orders (R22, R23) -/

theorem reverse_packGroups (v : Address) : (packGroups v).reverse = intLimbs v := by
  ext i hi : 1
  rw [Vector.getElem_reverse, packGroups, intLimbs, Vector.getElem_ofFn, Vector.getElem_ofFn]
  congr 1
  dsimp only
  omega

theorem reverse_intLimbs (v : Address) : (intLimbs v).reverse = packGroups v := by
  rw [← reverse_packGroups, Vector.reverse_reverse]

theorem packedValue_eq_intValue (s : State) : packedValue s = intValue { s with int := s.pk.reverse } := by
  simp [packedValue, intValue]

/-- Entry j of the four groups in the opposite order. -/
theorem getElem_reverse_four {α : Type} (x : Vector α 4) (j : Fin 4) : x.reverse[j] = x[3 - j] := by
  have hsub : (3 - j).val = 4 - 1 - j.val := by revert j; decide
  simp only [Fin.getElem_fin, Vector.getElem_reverse, hsub]

/-- What I2P puts into PK0..PK3 (R80). -/
theorem packGroups_intValue (s : State) : packGroups (intValue s) = s.int.reverse := by
  ext j hj : 1
  rw [packGroups, Vector.getElem_ofFn, intValue_group]
  exact (getElem_reverse_four s.int ⟨j, hj⟩).symm

/-- What P2I puts into INT0..INT3 (R81). -/
theorem intLimbs_packedValue (s : State) : intLimbs (packedValue s) = s.pk.reverse := by
  rw [packedValue_eq_intValue, ← reverse_packGroups, packGroups_intValue, Vector.reverse_reverse]

/-- The packed form of an integer is read back as that integer (R82). -/
theorem packedValue_of_packGroups {s : State} {v : Address} (h : s.pk = packGroups v) : packedValue s = v := by
  rw [packedValue_eq_intValue, h, reverse_packGroups]
  exact intValue_setInt v s

/-! ## The value of PK0..PK3 as a sum (R81) -/

theorem packedValue_toNat_eq_sum_groups (s : State) :
    (packedValue s).toNat = ∑ i : Fin 4, s.pk[3 - i].toNat * 2 ^ (32 * i.val) := by
  rw [packedValue_toNat, Fin.sum_univ_four]
  show _ = s.pk[3].toNat * 2 ^ (32 * 0) + s.pk[2].toNat * 2 ^ (32 * 1) + s.pk[1].toNat * 2 ^ (32 * 2) +
    s.pk[0].toNat * 2 ^ (32 * 3)
  omega

theorem packedValue_toNat_eq_sum_bytes (s : State) :
    (packedValue s).toNat = ∑ k : Fin 16, (packedByte s k).toNat * 2 ^ (8 * (15 - k.val)) := by
  rw [← foldl_packedBytes]
  simp [List.ofFn_succ, Fin.sum_univ_succ]
  omega

/-! ## The two commands by form -/

section
variable {s : State} (hf : s.fault = false)
include hf

/-- RANGE 0b11 is ILLEGAL_COMMAND for every OP (R66). -/
theorem exec_of_reserved {i : Instr} (hi : i.range = .reserved) : exec i s = .next (fail .illegalCommand s) := by
  cases i <;> cases hi <;> exact congrArg _ (runCommand_of_reserved hf _)

theorem exec_i2p_of_inRange (c : BitVec 5) :
    exec (.i2p .inRange c) s = .next (succeed (setPacked (intValue s) s)) :=
  exec_i2p_of_ready hf (by decide) c

theorem exec_i2p_of_outOfRange {r : RangeTag} (hr : r = .above ∨ r = .below) (c : BitVec 5) :
    exec (.i2p r c) s = .next (fail .valueError s) := by
  rcases hr with rfl | rfl
  all_goals rw [exec_i2p_of_ready hf (by decide), integerToPacked_of_outOfRange (by decide)]

theorem exec_p2i_sixteen {r : RangeTag} (hr : r ≠ .reserved) :
    exec (.p2i r 16) s = .next (succeed (setInt (packedValue s) s)) :=
  exec_p2i_of_ready hf hr 16

theorem exec_p2i_of_ne_sixteen {r : RangeTag} (hr : r ≠ .reserved) {c : BitVec 5} (hc : c ≠ 16) :
    exec (.p2i r c) s = .next (latchFault s) := by
  rw [exec_p2i_of_ready hf hr, ((packedToInteger_cases c s).resolve_left fun h => hc h.1).2]

end

/-- Settles O12: group j of IntValue() is INT[3-j], and byte k of the groups is byte k of IntValue(). -/
theorem integerToPackedResult : Obligations.IntegerToPackedResult := by
  refine ⟨by decide, fun s r c hf => ⟨rfl, ?_, fun hr => exec_i2p_of_outOfRange hf hr c,
    fun hr => exec_of_reserved hf hr⟩⟩
  rintro rfl
  have hgroup (j : Fin 4) : (packGroups (intValue s))[j] = (intValue s).extractLsb' (96 - 32 * j.val) 32 :=
    Vector.getElem_ofFn j.isLt
  exact ⟨_, exec_i2p_of_inRange hf c, hgroup, fun j => (hgroup j).trans (intValue_group s j),
    packedByte_of_packGroups rfl, rfl⟩

/-- Settles O13: IntValue() is then the value of PK0..PK3, whose limbs are the groups in the opposite order. -/
theorem packedToIntegerResult : Obligations.PackedToIntegerResult := by
  refine ⟨by decide, fun s r c hf => ⟨rfl, ?_, fun hr hc => exec_p2i_of_ne_sixteen hf hr hc,
    fun hr => exec_of_reserved hf hr⟩⟩
  rintro hr rfl
  have hvalue : intValue (succeed (setInt (packedValue s) s)) = packedValue s := intValue_setInt _ s
  refine ⟨_, exec_p2i_sixteen hf hr, ?_, ?_, fun i => ?_, rfl⟩
  · rw [hvalue, packedValue_toNat_eq_sum_groups]
  · rw [hvalue, packedValue_toNat_eq_sum_bytes]
  · rw [succeed_int, setInt_int, intLimbs_packedValue, getElem_reverse_four]

/-- Settles O17: each command reverses the order of the four groups, so the two together restore it. -/
theorem packedRoundTrip : Obligations.PackedRoundTrip := by
  intro s c r hf hr
  refine ⟨⟨_, exec_i2p_of_inRange hf c, rfl, fun t' hf' hpk => ?_⟩,
    ⟨_, exec_p2i_sixteen hf hr, rfl, fun t' hf' hint => ?_⟩⟩
  · refine ⟨_, exec_p2i_sixteen hf' hr, rfl, ?_⟩
    calc intValue (setInt (packedValue t') t')
        = packedValue t' := intValue_setInt _ t'
      _ = intValue s := packedValue_of_packGroups hpk
  · refine ⟨_, exec_i2p_of_inRange hf' c, rfl, ?_⟩
    calc packGroups (intValue t')
        = t'.int.reverse := packGroups_intValue t'
      _ = (intLimbs (packedValue s)).reverse := congrArg _ hint
      _ = s.pk := by rw [intLimbs_packedValue, Vector.reverse_reverse]

end Sys2Proof.Machine
end

section
/-! I2W, W2I and VW by form, result and frame, and the laws between them (41_words.md R90–R95). -/

namespace Sys2Proof.Machine

/-! ## W0..W7 and the 128-bit value: lane k holds the k-th 16-bit field, the most significant first (R24) -/

theorem getElem_laneWords (v : Address) (k : Fin 8) :
    (laneWords v)[k] = (v.extractLsb' (112 - 16 * k.val) 16).setWidth 32 :=
  Vector.getElem_ofFn k.isLt

/-- The words that I2W writes are valid (R90). -/
theorem laneWords_le (v : Address) (k : Fin 8) : (laneWords v)[k].toNat ≤ 0xFFFF := by
  rw [toNat_laneWords]
  omega

/-- What I2W writes into lane k is read back as word k. -/
theorem laneLow_of_laneWords {s : State} {v : Address} (h : s.w = laneWords v) (k : Fin 8) :
    laneLow s k = v.extractLsb' (112 - 16 * k.val) 16 := by
  rw [laneLow, h, getElem_laneWords, BitVec.extractLsb'_setWidth_of_le (by decide), BitVec.extractLsb'_eq_self]

/-- A lane that holds a valid word is that word, extended (R24). -/
theorem setWidth_laneLow {s : State} {k : Fin 8} (h : s.w[k].toNat ≤ 0xFFFF) :
    (laneLow s k).setWidth 32 = s.w[k] := by
  apply BitVec.eq_of_toNat_eq
  rw [BitVec.toNat_setWidth, laneLow, toNat_field]
  omega

/-- Field k of the value that W0..W7 hold is word k (R91). -/
theorem wordsValue_field (s : State) (k : Fin 8) :
    (wordsValue s).extractLsb' (112 - 16 * k.val) 16 = laneLow s k := by
  have hhigh {n} (x : BitVec n) (y : BitVec 16) (i : Nat) (hi : 16 ≤ i) :
      (x ++ y).extractLsb' i 16 = x.extractLsb' (i - 16) 16 := BitVec.extractLsb'_append_eq_of_le hi
  have hlast {n} (x : BitVec n) (y : BitVec 16) : (x ++ y).extractLsb' 0 16 = y := BitVec.extractLsb'_append_eq_right
  fin_cases k <;> simp [wordsValue, hhigh, hlast]

/-- I2W's words of the value of valid lanes are those lanes (R93). -/
theorem laneWords_wordsValue {s : State} (h : ∀ k : Fin 8, s.w[k].toNat ≤ 0xFFFF) :
    laneWords (wordsValue s) = s.w := by
  ext k hk : 1
  calc (laneWords (wordsValue s))[k]
      = (laneLow s ⟨k, hk⟩).setWidth 32 := by rw [← wordsValue_field]; exact getElem_laneWords _ ⟨k, hk⟩
    _ = s.w[k] := setWidth_laneLow (h ⟨k, hk⟩)

/-- A field and the 16 bits below it are one field. -/
theorem field_append_word {w : Nat} (v : BitVec w) (lo n : Nat) :
    v.extractLsb' (lo + 16) n ++ v.extractLsb' lo 16 = v.extractLsb' lo (n + 16) :=
  BitVec.extractLsb'_append_extractLsb'_eq_extractLsb' rfl

/-- The value of the lanes that I2W leaves is the integer it started from (R93). -/
theorem wordsValue_of_laneWords {s : State} {v : Address} (h : s.w = laneWords v) : wordsValue s = v := by
  simp [wordsValue, laneLow_of_laneWords h, field_append_word]

/-- The integer that SetInt(v) wrote is read back as v (R11). -/
theorem intValue_of_intLimbs {s : State} {v : Address} (h : s.int = intLimbs v) : intValue s = v :=
  calc intValue s
      = intValue (setInt v s) := by simp only [intValue, h, setInt_int]
    _ = v := intValue_setInt v s

/-- What W2I puts into INT[i]: lanes 6-2i and 7-2i (R91). -/
theorem getElem_intLimbs_wordsValue (s : State) (i : Fin 4) :
    (intLimbs (wordsValue s))[i] =
      (s.w[6 - 2 * i.val]'(by omega)).extractLsb' 0 16 ++ (s.w[7 - 2 * i.val]'(by omega)).extractLsb' 0 16 := by
  have hhigh := wordsValue_field s ⟨6 - 2 * i.val, by omega⟩
  have hlow := wordsValue_field s ⟨7 - 2 * i.val, by omega⟩
  rw [show 112 - 16 * (6 - 2 * i.val) = 32 * i.val + 16 by omega] at hhigh
  rw [show 112 - 16 * (7 - 2 * i.val) = 32 * i.val by omega] at hlow
  calc (intLimbs (wordsValue s))[i]
      = (wordsValue s).extractLsb' (32 * i.val) 32 := Vector.getElem_ofFn i.isLt
    _ = _ := by rw [← field_append_word, hhigh, hlow]; rfl

/-- Lanes 2m and 2m+1 of v's words are the halves of group m (R90, R95). -/
theorem laneWords_halves (v : Address) (m : Fin 4) :
    (laneWords v)[2 * m.val]'(by omega) = ((v.extractLsb' (96 - 32 * m.val) 32).extractLsb' 16 16).setWidth 32 ∧
    (laneWords v)[2 * m.val + 1]'(by omega) =
      ((v.extractLsb' (96 - 32 * m.val) 32).extractLsb' 0 16).setWidth 32 := by
  rw [field_field _ _ _ _ _ (by decide), field_field _ _ _ _ _ (by decide)]
  have heven := getElem_laneWords v ⟨2 * m.val, by omega⟩
  have hodd := getElem_laneWords v ⟨2 * m.val + 1, by omega⟩
  rw [show 112 - 16 * (2 * m.val) = 96 - 32 * m.val + 16 by omega] at heven
  rw [show 112 - 16 * (2 * m.val + 1) = 96 - 32 * m.val + 0 by omega] at hodd
  exact ⟨heven, hodd⟩

/-- A 32-bit value is its high half shifted up, with its low half. -/
theorem eq_halves (x : Word) :
    x = (x.extractLsb' 16 16).setWidth 32 <<< 16 ||| (x.extractLsb' 0 16).setWidth 32 := by
  rw [← BitVec.setWidth_append_eq_shiftLeft_setWidth_or, field_append_word x 0 16]
  simp

/-- The value of valid lanes as a sum (R91). -/
theorem wordsValue_toNat_eq_sum {s : State} (h : ∀ k : Fin 8, s.w[k].toNat ≤ 0xFFFF) :
    (wordsValue s).toNat = ∑ k : Fin 8, s.w[k].toNat * 2 ^ (16 * (7 - k.val)) := by
  rw [← foldl_lanes h]
  simp [List.ofFn_succ, Fin.sum_univ_succ]
  omega

/-! ## The three commands by form -/

section
variable {s : State} (hf : s.fault = false)
include hf

theorem exec_i2w_of_inRange (c : BitVec 5) :
    exec (.i2w .inRange c) s = .next (succeed (setLanes (intValue s) s)) :=
  exec_i2w_of_ready hf (by decide) c

theorem exec_i2w_of_outOfRange {r : RangeTag} (hr : r = .above ∨ r = .below) (c : BitVec 5) :
    exec (.i2w r c) s = .next (fail .valueError s) := by
  rcases hr with rfl | rfl
  all_goals rw [exec_i2w_of_ready hf (by decide), integerToWords_of_outOfRange (by decide)]

variable {r : RangeTag} (hr : r ≠ .reserved)
include hr

theorem exec_w2i_of_valid {c : BitVec 5} (hv : wordsValid c s) :
    exec (.w2i r c) s = .next (succeed (setInt (wordsValue s) s)) := by
  rw [exec_w2i_of_ready hf hr, ((wordsToInteger_cases c s).resolve_right fun h => h.1 hv).2]

theorem exec_w2i_of_not_valid {c : BitVec 5} (hv : ¬wordsValid c s) :
    exec (.w2i r c) s = .next (fail .rangeError s) := by
  rw [exec_w2i_of_ready hf hr, ((wordsToInteger_cases c s).resolve_left fun h => hv h.1).2]

/-- W2I under COUNT = 8 with valid lanes (R91). -/
theorem exec_w2i_eight (hlanes : ∀ k : Fin 8, s.w[k].toNat ≤ 0xFFFF) :
    exec (.w2i r 8) s = .next (succeed (setInt (wordsValue s) s)) :=
  exec_w2i_of_valid hf hr ((wordsValid_iff 8 s).mpr ⟨rfl, hlanes⟩)

end

/-- Settles O14: lane k is field k of IntValue(), and lanes 2m and 2m+1 are the halves of its group m, INT[3-m]. -/
theorem integerToWordsResult : Obligations.IntegerToWordsResult := by
  refine ⟨by decide, fun s r c hf => ⟨rfl, ?_, fun hr => exec_i2w_of_outOfRange hf hr c,
    fun hr => exec_of_reserved hf hr⟩⟩
  rintro rfl
  refine ⟨_, exec_i2w_of_inRange hf c, getElem_laneWords _, fun m => ?_, rfl⟩
  rw [← intValue_group]
  exact laneWords_halves _ m

/-- Settles O15: IntValue() is then the value of W0..W7, whose 32-bit fields are pairs of lanes. -/
theorem wordsToIntegerResult : Obligations.WordsToIntegerResult := by
  refine ⟨by decide, fun s r c hf => ⟨rfl, ?_, fun hr hbad => ?_, fun hr => exec_of_reserved hf hr⟩⟩
  · rintro hr rfl hlanes
    have hvalue : intValue (succeed (setInt (wordsValue s) s)) = wordsValue s := intValue_setInt _ s
    refine ⟨_, exec_w2i_eight hf hr hlanes, ?_, getElem_intLimbs_wordsValue s, rfl⟩
    rw [hvalue, wordsValue_toNat_eq_sum hlanes]
  · refine exec_w2i_of_not_valid hf hr fun hv => ?_
    obtain ⟨hc, hlanes⟩ := (wordsValid_iff c s).mp hv
    rcases hbad with hc' | ⟨k, hk⟩
    · exact hc' hc
    · exact absurd (hlanes k) (Nat.not_le.mpr hk)

/-- Settles O16: a lane's bits 31:16 are zero exactly when it is at most 0xFFFF (`wordsValid_iff`). -/
theorem validateWordsResult : Obligations.ValidateWordsResult := by
  refine ⟨by decide, fun s r c hf => ⟨rfl, fun hr => ?_, fun hr => exec_of_reserved hf hr⟩⟩
  rw [exec_vw_of_ready hf hr, validateWords, decide_eq_decide.mpr (wordsValid_iff c s)]
  rfl

/-- Settles O18: the lanes that I2W leaves are valid and hold its integer; valid lanes are the words of their value. -/
theorem wordRoundTrip : Obligations.WordRoundTrip := by
  intro s c r hf hr
  refine ⟨⟨_, exec_i2w_of_inRange hf c, rfl, fun t' hf' hw => ?_⟩,
    fun hlanes => ⟨_, exec_w2i_eight hf hr hlanes, rfl, fun t' hf' hint => ?_⟩⟩
  · have hw : t'.w = laneWords (intValue s) := hw
    have hlanes (k : Fin 8) : t'.w[k].toNat ≤ 0xFFFF := hw ▸ laneWords_le _ k
    refine ⟨_, exec_w2i_eight hf' hr hlanes, rfl, ?_⟩
    calc intValue (setInt (wordsValue t') t')
        = wordsValue t' := intValue_setInt _ t'
      _ = intValue s := wordsValue_of_laneWords hw
  · refine ⟨_, exec_i2w_of_inRange hf' c, rfl, ?_⟩
    calc laneWords (intValue t')
        = laneWords (wordsValue s) := congrArg _ (intValue_of_intLimbs hint)
      _ = s.w := laneWords_wordsValue hlanes

/-- Settles O19: both commands decide by the same check of COUNT and the lanes. -/
theorem validateAgreesWithWordsToInteger : Obligations.ValidateAgreesWithWordsToInteger := by
  intro s c r r' hf hr hr'
  have hvalid : (validateWords c s).valid = true ↔ wordsValid c s := decide_eq_true_iff
  by_cases hv : wordsValid c s
  · exact ⟨_, _, exec_vw_of_ready hf hr c, exec_w2i_of_valid hf hr' hv, iff_of_true (hvalid.mpr hv) rfl⟩
  · exact ⟨_, _, exec_vw_of_ready hf hr c, exec_w2i_of_not_valid hf hr' hv,
      iff_of_false (hv ∘ hvalid.mp) (by simp [errorBits])⟩

/-- Settles O20: lanes 2m and 2m+1 are the halves of group m, which is PK[m]. -/
theorem wordsAreHalvesOfGroups : Obligations.WordsAreHalvesOfGroups := by
  intro s c c' hf
  refine ⟨_, _, exec_i2w_of_inRange hf c, exec_i2p_of_inRange hf c', fun m => ?_⟩
  obtain ⟨hhigh, hlow⟩ := laneWords_halves (intValue s) m
  simp only [succeed_w, setLanes_w, hhigh, hlow, ← eq_halves]
  exact Vector.getElem_ofFn m.isLt

/-- Settles O21: lane k is field k of the integer, extended. -/
theorem integerToWordsIsLanewise : Obligations.IntegerToWordsIsLanewise := by
  intro s s' c c' k hf hf' hfield
  refine ⟨_, _, exec_i2w_of_inRange hf c, exec_i2w_of_inRange hf' c', ?_⟩
  calc (laneWords (intValue s))[k]
      = ((intValue s).extractLsb' (112 - 16 * k.val) 16).setWidth 32 := getElem_laneWords _ k
    _ = ((intValue s').extractLsb' (112 - 16 * k.val) 16).setWidth 32 := by rw [hfield]
    _ = (laneWords (intValue s'))[k] := (getElem_laneWords _ k).symm

end Sys2Proof.Machine
end

section
/-! NOP and the STATUS write (42_control.md R100, R101). -/

namespace Sys2Proof.Machine

/-- The body of NOP is `succeed`, under every legal RANGE and every COUNT (R100). -/
theorem exec_nop_of_ready {s : State} (hf : s.fault = false) {r : RangeTag} (hr : r ≠ .reserved) (c : BitVec 5) :
    exec (.nop r c) s = .next (succeed s) :=
  congrArg Host.Outcome.next (runCommand_of_ready hf hr succeed)

/-- Settles O11: NOP runs `succeed`, unless RANGE or FAULT stops it as it stops every command. -/
theorem nopClearsEcodeOnly : Obligations.NopClearsEcodeOnly :=
  ⟨by decide, fun _ _ c => ⟨rfl, fun hf hr => exec_nop_of_ready hf hr c, fun hf hr => exec_of_reserved hf hr,
    fun hf => exec_of_faulted hf _⟩⟩

/-- Settles O40: `step_of_statusWrite`, which needs no premise on FAULT, gives ERR as a conjunction. -/
theorem statusWriteClearsErrOnly : Obligations.StatusWriteClearsErrOnly := by
  intro s v rest hp
  have herr : (s.err && !v.getLsbD 8) = if v.getLsbD 8 then false else s.err := by
    cases v.getLsbD 8 <;> simp
  rw [step_of_statusWrite hp, herr]

end Sys2Proof.Machine
end

section
/-! Failures: what a failing command changes, what a CMD write reports, and a faulted block (60_exceptions.md R110–R116). -/

namespace Sys2Proof.Machine

/-! ## What a failing command changes (R111) -/

/-- A command that runs ends by `succeed`, `fail` or `latchFault`, and the two failures update nothing before it (R13). -/
theorem exec_ending {i : Instr} {s t : State} (hf : s.fault = false) (h : exec i s = .next t) :
    (∃ u, t = succeed u) ∨ (∃ e, t = fail e s) ∨ t = latchFault s := by
  rcases exec_cases i s t h with ⟨hf', -⟩ | ⟨-, -, rfl⟩ | ⟨-, -, hrun⟩
  · simp [hf] at hf'
  · exact .inr (.inl ⟨_, rfl⟩)
  · rcases hrun with ⟨-, -, -, rfl⟩ | ⟨-, -, rfl⟩ | ⟨-, -, -, -, rfl⟩ | ⟨-, -, rfl⟩ | ⟨-, -, -, -, rfl⟩ | ⟨-, -, rfl⟩ |
      ⟨-, -, -, -, rfl⟩ | ⟨-, -, -, -, rfl⟩ | ⟨-, -, -, -, rfl⟩ | ⟨-, -, -, rfl⟩
    · exact .inl ⟨_, rfl⟩
    · exact .inl ⟨_, rfl⟩
    · exact .inr (.inl ⟨_, rfl⟩)
    · exact .inl ⟨_, rfl⟩
    · exact .inr (.inr rfl)
    · exact .inl ⟨_, rfl⟩
    · exact .inr (.inl ⟨_, rfl⟩)
    · exact .inl ⟨_, rfl⟩
    · exact .inr (.inl ⟨_, rfl⟩)
    · exact .inl ⟨_, rfl⟩

theorem errorBits_inj {e e' : ErrorCode} : errorBits e = errorBits e' ↔ e = e' := by
  cases e <;> cases e' <;> decide

/-- ECODE tells the outcomes apart (R110). -/
theorem ReportsCode.ecode_eq_iff {s t : State} {e : ErrorCode} (h : ReportsCode s t e) (e' : ErrorCode) :
    t.ecode = errorBits e' ↔ e = e' := by
  rw [h.ecode_eq, errorBits_inj]

/-- Settles O22: a command whose ECODE is not 0 did not end by `succeed`, and FAULT is set exactly for the code of
CONTRACT_VIOLATION (`exec_reportsCode`). -/
theorem failingCommandChangesOnlyStatus : Obligations.FailingCommandChangesOnlyStatus := by
  intro i s t hf h h0
  obtain ⟨e, he⟩ := exec_reportsCode hf h
  refine ⟨?_, he.fault_iff.trans (he.ecode_eq_iff .contractViolation).symm⟩
  rcases exec_ending hf h with ⟨u, rfl⟩ | ⟨e, rfl⟩ | rfl
  · exact absurd rfl h0
  · rfl
  · rfl

/-! ## What a CMD write reports (R112)

The causes of VALUE_ERROR, RANGE_ERROR and CONTRACT_VIOLATION exclude each other, since each names its own opcodes. -/

section
variable (c : Word) (s : State)

theorem reportedCode_eq_illegalCommand_iff : reportedCode c s = .illegalCommand ↔ IllegalWord c := by
  unfold reportedCode
  split_ifs with hill
  · exact iff_of_true rfl hill
  all_goals exact iff_of_false (by decide) hill

theorem reportedCode_eq_valueError_iff : reportedCode c s = .valueError ↔
    ¬IllegalWord c ∧ (c.extractLsb' 0 4 = 1#4 ∨ c.extractLsb' 0 4 = 3#4) ∧ c.extractLsb' 4 2 ≠ 0 := by
  unfold reportedCode
  split_ifs with hill hvalue
  · exact iff_of_false (by decide) fun h => h.1 hill
  · exact iff_of_true rfl ⟨hill, hvalue⟩
  all_goals exact iff_of_false (by decide) fun h => hvalue h.2

theorem reportedCode_eq_rangeError_iff : reportedCode c s = .rangeError ↔
    ¬IllegalWord c ∧ c.extractLsb' 0 4 = 4#4 ∧ (c.extractLsb' 8 5 ≠ 8#5 ∨ ∃ k : Fin 8, 0xFFFF < s.w[k].toNat) := by
  unfold reportedCode
  split_ifs with hill hvalue hrange
  · exact iff_of_false (by decide) fun h => h.1 hill
  · refine iff_of_false (by decide) ?_
    rintro ⟨-, hop, -⟩
    simp [hop] at hvalue
  · exact iff_of_true rfl ⟨hill, hrange⟩
  all_goals exact iff_of_false (by decide) fun h => hrange h.2

theorem reportedCode_eq_contractViolation_iff : reportedCode c s = .contractViolation ↔
    ¬IllegalWord c ∧ c.extractLsb' 0 4 = 2#4 ∧ c.extractLsb' 8 5 ≠ 16#5 := by
  unfold reportedCode
  split_ifs with hill hvalue hrange hcontract
  · exact iff_of_false (by decide) fun h => h.1 hill
  · refine iff_of_false (by decide) ?_
    rintro ⟨-, hop, -⟩
    simp [hop] at hvalue
  · refine iff_of_false (by decide) ?_
    rintro ⟨-, hop, -⟩
    simp [hop] at hrange
  · exact iff_of_true rfl ⟨hill, hcontract⟩
  · exact iff_of_false (by decide) fun h => hcontract h.2

end

/-- Settles O23: the write is ignored while FAULT is 1, and else it ends with the outcome that its word reports. -/
theorem cmdWriteOutcomeAndPriority : Obligations.CmdWriteOutcomeAndPriority := by
  intro s t c rest hp h
  refine ⟨fun hf => step_of_ignored_command ⟨rest, hp⟩ hf h, fun hf => ?_⟩
  have hcode := (step_endsCommand ⟨rest, hp⟩ hf h).toReportsCode
  refine ⟨(hcode.ecode_eq_iff .illegalCommand).trans (reportedCode_eq_illegalCommand_iff c s),
    (hcode.ecode_eq_iff .valueError).trans (reportedCode_eq_valueError_iff c s),
    (hcode.ecode_eq_iff .rangeError).trans (reportedCode_eq_rangeError_iff c s),
    (hcode.ecode_eq_iff .contractViolation).trans (reportedCode_eq_contractViolation_iff c s), ?_⟩
  rw [hcode.ecode_eq]
  cases reportedCode c s <;> decide

/-! ## A faulted block (R116) -/

/-- The step that delivers a CMD write to a faulted block. -/
theorem step_of_faulted_command {s : State} {c : Word} {rest : List HostEvent} (hf : s.fault = true)
    (hp : s.pending = .transfer (commandTransfer s.base c) :: rest) :
    step s = .next { s with pending := rest, resp := .done } := by
  have hwrite : writeCmd c { s with pending := rest } = .next { s with pending := rest } := if_pos hf
  rw [step_of_command hp, hwrite]
  rfl

/-- The step that delivers a word read of a register (R46). -/
theorem step_of_read {s : State} {r : Reg} {rest : List HostEvent}
    (hp : s.pending = .transfer (regRead s.base (regOffset r)) :: rest) :
    step s = .next { s with pending := rest, resp := .data (readReg r s) } := by
  rw [readReturnsTheRegister s r rest hp]
  cases r <;> rfl

/-- Settles O31: FAULT stops the CMD write only, and every other access is what it is in any state. -/
theorem faultedBlockIgnoresCommands : Obligations.FaultedBlockIgnoresCommands := fun _ _ _ hf =>
  ⟨fun hs => hs.fault_iff.mp hf, step_of_faulted_command hf, fun _ => step_of_read, fun _ => step_of_intWrite,
    fun j hp => step_of_access (r := .pk j) hp, fun k hp => step_of_access (r := .w k) hp, step_of_statusWrite⟩

end Sys2Proof.Machine
end

section
/-! Every step completes, and what a reset leaves (70_reset_and_hazards.md R130, R138). -/

namespace Sys2Proof.Machine

/-! ## Progress (R138) -/

/-- Every access of a register answers a next state, on the block where it stands as on one placed elsewhere. -/
theorem accessReg_answers_next (r : Reg) (a : Access) (s : State) : ∃ t, accessReg r a s = .next t :=
  (accessReg_placedAt r a s s.base).imp fun _ h => h.1

theorem performTransfer_answers_next (a : Transfer) (s : State) : ∃ t, performTransfer a s = .next t := by
  rcases performTransfer_cases a s with ⟨-, h⟩ | ⟨_, -, -, h⟩ | ⟨r, -, h⟩
  · exact ⟨_, h⟩
  · exact ⟨_, h⟩
  · rw [h]
    exact accessReg_answers_next r a.access s

theorem deliver_answers_next (e : HostEvent) (s : State) : ∃ t, deliver e s = .next t := by
  cases e with
  | transfer a => exact performTransfer_answers_next a s
  | reset => exact ⟨_, rfl⟩
  | resetDuring _ => exact ⟨_, rfl⟩

/-- Settles O9: the block waits, or it delivers the oldest interaction. -/
theorem everyStepCompletes : Obligations.EveryStepCompletes := by
  intro s
  cases hp : s.pending with
  | nil => exact ⟨s, step_of_idle hp⟩
  | cons e rest =>
    rw [step_of_pending hp]
    exact deliver_answers_next e { s with pending := rest }

/-! ## Reset (R130) -/

theorem resetRegisters_sameRegisters (s : State) : SameRegisters (resetRegisters s) (State.resetAt s.base) :=
  ⟨⟨rfl, rfl, rfl⟩, rfl, rfl, rfl, rfl⟩

theorem abandonTransfer_sameRegisters (s : State) : SameRegisters (abandonTransfer s) (State.resetAt s.base) :=
  resetRegisters_sameRegisters s

/-- An abandoned transfer gets no response or the error response. -/
theorem abandonTransfer_resp_silent_or_busError (s : State) :
    (abandonTransfer s).resp = .silent ∨ (abandonTransfer s).resp = .busError := by
  rw [abandonTransfer_resp]
  split_ifs
  · exact .inr rfl
  · exact .inl rfl

/-- Settles O44: the step is `resetRegisters` or `abandonTransfer`, neither of which reads a register of the old state. -/
theorem resetOverwritesEveryRegister : Obligations.ResetOverwritesEveryRegister := fun _ _ _ =>
  ⟨fun hp => ⟨_, step_of_pending hp, resetRegisters_sameRegisters _, rfl, rfl⟩,
    fun hp => ⟨_, step_of_pending hp, abandonTransfer_sameRegisters _, rfl, rfl,
      abandonTransfer_resp_silent_or_busError _⟩⟩

end Sys2Proof.Machine
end
